-- ==== Sys2Proof/Word.lean ====
section
/-! DEFINITION. The machine's word and byte (00_scope.md R5: a word is 16 bits, bit 0 the least significant). -/

namespace Sys2Proof

/-- A 16-bit word: the unit of every register and of every address but a byte address (00_scope.md R8). -/
abbrev Word := BitVec 16

/-- One byte of memory. -/
abbrev Byte := BitVec 8

end Sys2Proof
end

