-- ==== Sys2Proof/Config.lean ====
section
/-! DEFINITION. What an installation fixes (the parameters of 00_scope.md R4), and the one source of free values.

The parameters are plain data and live in `State.cfg`, so a statement about every state holds for every installation. -/

namespace Sys2Proof

/-- The RAM sizes the source names (20_memory.md R43). -/
inductive RamTier where
  | basic
  | standard
  | advanced
  | full
deriving DecidableEq, Repr

/-- `RAM_WORDS`: installed RAM in words, starting at word 0 (00_scope.md R4). -/
def RamTier.words : RamTier → Nat
  | .basic => 0x4000
  | .standard => 0x8000
  | .advanced => 0xC000
  | .full => 0xE000

/-- The read-only header words of a device in a slot from 1 to 31. A present device's DEV_ID is not 0: that is how a
scan of the slots finds it (60_exceptions.md R334). -/
structure Device where
  devId : Word
  devIdHi : Word
  devVer : Word
  present : devId ≠ 0x0000#16
deriving DecidableEq, Repr

/-- The devices of the standard table (60_exceptions.md R335); the System Control Block of slot 0 is no parameter. -/
inductive StandardDevice where
  | display
  | keyboard
  | clock
  | floppy
  | nic
  | sensors
  | navigation
  | mathCoprocessor
  | cryptoCoprocessor
  | debugProbe
deriving DecidableEq, Repr

/-- The slot the table assigns by convention (60_exceptions.md R335). -/
def StandardDevice.slot : StandardDevice → Nat
  | .display => 1
  | .keyboard => 2
  | .clock => 3
  | .floppy => 4
  | .nic => 5
  | .sensors => 6
  | .navigation => 7
  | .mathCoprocessor => 16
  | .cryptoCoprocessor => 17
  | .debugProbe => 18

/-- DEV_ID (60_exceptions.md R335). -/
def StandardDevice.devId : StandardDevice → Word
  | .display => 0xF615#16
  | .keyboard => 0x7406#16
  | .clock => 0xB402#16
  | .floppy => 0x24C5#16
  | .nic => 0xA465#16
  | .sensors => 0xC0DE#16
  | .navigation => 0x5600#16
  | .mathCoprocessor => 0x5448#16
  | .cryptoCoprocessor => 0x5950#16
  | .debugProbe => 0x4700#16

/-- DEV_ID_HI (60_exceptions.md R335). -/
def StandardDevice.devIdHi : StandardDevice → Word
  | .display => 0x734D#16
  | .keyboard => 0x30CF#16
  | .clock => 0x12D0#16
  | .floppy => 0x4FD5#16
  | .nic => 0x7EC3#16
  | .sensors => 0x53E4#16
  | .navigation => 0x4E41#16
  | .mathCoprocessor => 0x4D41#16
  | .cryptoCoprocessor => 0x4352#16
  | .debugProbe => 0x4442#16

/-- A standard device's header; its version is the device's own. -/
def StandardDevice.device (k : StandardDevice) (ver : Word) : Device :=
  ⟨k.devId, k.devIdHi, ver, by cases k <;> decide⟩

/-- The base address of a slot, `0xE000 + 256 · slot` (60_exceptions.md R335, 20_memory.md R46). -/
def slotBase (slot : Nat) : Word := BitVec.ofNat 16 (0xE000 + 256 * slot)

/-- The parameters of an installation (00_scope.md R4). -/
structure Config where
  /-- `RAM_WORDS`. -/
  ram : RamTier
  /-- `ROM_IMAGE`, copied to RAM from word 0 at boot. -/
  rom : List Word
  /-- `DEVICES`: the occupied slots among 1 to 31, each with its header. -/
  devices : List (Nat × Device)
  /-- `SYS_VER_VALUE`. -/
  sysVer : Word
  /-- `CYCLE_BUDGET`. -/
  cycleBudget : Nat
  /-- `HWCOUNT`: connected devices, slot 0 included. -/
  hwCount : Nat
  /-- `DEBUGGER_ATTACHED`. -/
  debuggerAttached : Bool
  /-- `MPU_BASE_RESET`. -/
  mpuBaseReset : Word
  /-- `MPU_LIMIT_RESET`. -/
  mpuLimitReset : Word
  /-- `HLT_WAKE_ON_QUEUED`. -/
  hltWakeOnQueued : Bool
deriving DecidableEq, Repr

/-- The installation of `State.reset`: all RAM, no device, no debugger, and the spec's default for
`HLT_WAKE_ON_QUEUED`. DESIGN CHOICE (log entries 1, 2, 3, 7, 21), unsafe: the spec leaves each of these a parameter. -/
def Config.initial : Config where
  ram := .full
  rom := []
  devices := []
  sysVer := 0x0000#16
  cycleBudget := 10000
  hwCount := 1
  debuggerAttached := false
  mpuBaseReset := 0x0000#16
  mpuLimitReset := 0x0000#16
  hltWakeOnQueued := false

/-- The free value of the n-th draw the environment's supply does not cover (00_scope.md R6 `draw`): it has no
body, so nothing can be proved of it. DESIGN CHOICE (log entry 5), safe. -/
opaque Config.freeDraw : Nat → Word

end Sys2Proof
end

