-- ==== Sys2Proof/Syntax.lean ====
section
/-! DEFINITION. The instructions: one constructor for each of the 63 rows of the opcode map (30_encoding.md R100). -/

namespace Sys2Proof

/-- The eight general registers, in the order of their index (10_state.md R10). -/
inductive Reg where
  | A | B | C | X | Y | Z | I | J
deriving DecidableEq, Repr

/-- Operand `a` (30_encoding.md R87). A form that has a next word carries it. -/
inductive OpA where
  /-- `A` … `J` -/
  | reg (r : Reg)
  /-- `[A]` … `[J]` -/
  | ind (r : Reg)
  /-- `[A + nw]` … `[J + nw]` -/
  | idx (r : Reg) (nw : Word)
  /-- `POP`, `[SP++]` -/
  | pop
  /-- `PEEK`, `[SP]` -/
  | peek
  /-- `PICK n`, `[SP + nw]` -/
  | pick (nw : Word)
  | sp
  | pc
  | ex
  /-- `[nw]` -/
  | dir (nw : Word)
  /-- the literal `nw` -/
  | lit (nw : Word)
  | fl
  /-- an inline literal, −1 to 29 -/
  | inl (v : Word)
deriving DecidableEq, Repr

/-- Operand `b` (30_encoding.md R88). A form that has a next word carries it. -/
inductive OpB where
  | reg (r : Reg)
  | ind (r : Reg)
  | idx (r : Reg) (nw : Word)
  /-- `PUSH`, `[--SP]` -/
  | push
  | peek
  | pick (nw : Word)
  | sp
  | pc
  | ex
  | dir (nw : Word)
  | fl
deriving DecidableEq, Repr

/-- One constructor per row of spec/opcode_table.json; assembly order `b, a` (30_encoding.md R81, R82). A special
instruction that ignores `a` carries it all the same: the field is part of the word (R102). -/
inductive Instr where
  -- basic 0x01 to 0x09
  | set (b : OpB) (a : OpA)
  | add (b : OpB) (a : OpA)
  | sub (b : OpB) (a : OpA)
  | mul (b : OpB) (a : OpA)
  | mli (b : OpB) (a : OpA)
  | div (b : OpB) (a : OpA)
  | dvi (b : OpB) (a : OpA)
  | mod (b : OpB) (a : OpA)
  | mdi (b : OpB) (a : OpA)
  -- basic 0x0A to 0x0F
  | and (b : OpB) (a : OpA)
  | bor (b : OpB) (a : OpA)
  | xor (b : OpB) (a : OpA)
  | shr (b : OpB) (a : OpA)
  | asr (b : OpB) (a : OpA)
  | shl (b : OpB) (a : OpA)
  -- basic 0x10 to 0x17
  | ifb (b : OpB) (a : OpA)
  | ifc (b : OpB) (a : OpA)
  | ife (b : OpB) (a : OpA)
  | ifn (b : OpB) (a : OpA)
  | ifg (b : OpB) (a : OpA)
  | ifa (b : OpB) (a : OpA)
  | ifl (b : OpB) (a : OpA)
  | ifu (b : OpB) (a : OpA)
  -- basic 0x18 to 0x1F
  | adc (b : OpB) (a : OpA)
  | sbb (b : OpB) (a : OpA)
  | cmp (b : OpB) (a : OpA)
  | tst (b : OpB) (a : OpA)
  | fxmul (b : OpB) (a : OpA)
  | fxdiv (b : OpB) (a : OpA)
  | ldb (b : OpB) (a : OpA)
  | reserved1F (b : OpB) (a : OpA)
  -- special 0x00 to 0x0F
  | nop (a : OpA)
  | jsr (a : OpA)
  | bsr (a : OpA)
  | jz (a : OpA)
  | jnz (a : OpA)
  | jc (a : OpA)
  | jnc (a : OpA)
  | js (a : OpA)
  | jns (a : OpA)
  | jo (a : OpA)
  | ja (a : OpA)
  | jbe (a : OpA)
  | jge (a : OpA)
  | jl (a : OpA)
  | jg (a : OpA)
  | jle (a : OpA)
  -- special 0x10 to 0x17
  | int (a : OpA)
  | iag (a : OpA)
  | ias (a : OpA)
  | rfi (a : OpA)
  | iaq (a : OpA)
  | reserved15 (a : OpA)
  | reserved16 (a : OpA)
  | reserved17 (a : OpA)
  -- special 0x18 to 0x1F
  | neg (a : OpA)
  | not (a : OpA)
  | sxb (a : OpA)
  | swp (a : OpA)
  | bcopy (a : OpA)
  | brk (a : OpA)
  | hlt (a : OpA)
  | stb (a : OpA)
deriving DecidableEq, Repr

end Sys2Proof
end

