-- ==== Sys2Proof/WellFormed.lean ====
section
/-! DEFINITION. Which syntactic instructions an instruction word can hold. The one operand whose value the encoding
bounds is the inline literal (30_encoding.md R87); every other term of `Instr` has an encoding. -/

namespace Sys2Proof

/-- An inline literal is one of −1 to 29, that is 0xFFFF or 0x0000 to 0x001D (30_encoding.md R87, R113). -/
def OpA.wf : OpA → Bool
  | .inl v => decide ((v + 1#16).toNat ≤ 30)
  | _ => true

/-- The `a` operand, which every instruction has. -/
def Instr.operandA : Instr → OpA
  | .set _ a | .add _ a | .sub _ a | .mul _ a | .mli _ a | .div _ a | .dvi _ a | .mod _ a | .mdi _ a
  | .and _ a | .bor _ a | .xor _ a | .shr _ a | .asr _ a | .shl _ a
  | .ifb _ a | .ifc _ a | .ife _ a | .ifn _ a | .ifg _ a | .ifa _ a | .ifl _ a | .ifu _ a
  | .adc _ a | .sbb _ a | .cmp _ a | .tst _ a | .fxmul _ a | .fxdiv _ a | .ldb _ a | .reserved1F _ a
  | .nop a | .jsr a | .bsr a | .jz a | .jnz a | .jc a | .jnc a | .js a | .jns a | .jo a | .ja a | .jbe a
  | .jge a | .jl a | .jg a | .jle a | .int a | .iag a | .ias a | .rfi a | .iaq a
  | .reserved15 a | .reserved16 a | .reserved17 a | .neg a | .not a | .sxb a | .swp a
  | .bcopy a | .brk a | .hlt a | .stb a => a

/-- An instruction some word (with its next words) encodes. -/
def Instr.wf (i : Instr) : Bool := i.operandA.wf

end Sys2Proof
end

