-- ==== Sys2Proof/Decode.lean ====
section
/-! DEFINITION. Decoding and encoding (30_encoding.md R80 to R88, R100). Every 16-bit word decodes to some row (R101);
the one thing a decoder of a list of words can lack is a word. -/

namespace Sys2Proof

/-! ### The fields of the first word (R80) -/

/-- `o = w[4:0]`. -/
def fieldO (w : Word) : BitVec 5 := w.extractLsb' 0 5

/-- `bf = w[9:5]`: operand `b`, or the sub-opcode. -/
def fieldB (w : Word) : BitVec 5 := w.extractLsb' 5 5

/-- `af = w[15:10]`. -/
def fieldA (w : Word) : BitVec 6 := w.extractLsb' 10 6

/-- `w = (af << 10) | (bf << 5) | o`. -/
def packFields (af : BitVec 6) (bf o : BitVec 5) : Word := af ++ bf ++ o

/-! ### Length (R86) -/

/-- `NwA(af) = 1`: operand `a` has a next word. -/
def nwA (af : BitVec 6) : Bool :=
  (0x10 ≤ af.toNat && af.toNat ≤ 0x17) || af.toNat == 0x1A || af.toNat == 0x1E || af.toNat == 0x1F

/-- `NwB(bf) = 1`: operand `b` has a next word. -/
def nwB (bf : BitVec 5) : Bool :=
  (0x10 ≤ bf.toNat && bf.toNat ≤ 0x17) || bf.toNat == 0x1A || bf.toNat == 0x1E

/-- The word is a basic instruction and its `b` has a next word; a sub-opcode never has one (R86). -/
def hasNextB (w : Word) : Bool := fieldO w != 0#5 && nwB (fieldB w)

/-- `Length(w)`, the length in words of the instruction whose first word is `w`. -/
def lengthOf (w : Word) : Nat := 1 + (nwA (fieldA w)).toNat + (hasNextB w).toNat

/-! ### Operand fields (R87, R88) -/

/-- The register of an index (10_state.md R10). -/
def decodeReg (n : BitVec 3) : Reg :=
  match n.toNat with
  | 0 => .A
  | 1 => .B
  | 2 => .C
  | 3 => .X
  | 4 => .Y
  | 5 => .Z
  | 6 => .I
  | _ => .J

/-- The index of a register (10_state.md R10). -/
def Reg.code : Reg → BitVec 3
  | .A => 0
  | .B => 1
  | .C => 2
  | .X => 3
  | .Y => 4
  | .Z => 5
  | .I => 6
  | .J => 7

/-- Operand `a` from its field and its next word, if it has one (R87). -/
def decodeA (af : BitVec 6) (nw : Word) : OpA :=
  let r := decodeReg (af.extractLsb' 0 3)
  if af.toNat < 0x08 then .reg r
  else if af.toNat < 0x10 then .ind r
  else if af.toNat < 0x18 then .idx r nw
  else if af = 0x18#6 then .pop
  else if af = 0x19#6 then .peek
  else if af = 0x1A#6 then .pick nw
  else if af = 0x1B#6 then .sp
  else if af = 0x1C#6 then .pc
  else if af = 0x1D#6 then .ex
  else if af = 0x1E#6 then .dir nw
  else if af = 0x1F#6 then .lit nw
  else if af = 0x20#6 then .fl
  else .inl (af.setWidth 16 - 0x22#16)

/-- Operand `b` from its field and its next word, if it has one (R88). -/
def decodeB (bf : BitVec 5) (nw : Word) : OpB :=
  let r := decodeReg (bf.extractLsb' 0 3)
  if bf.toNat < 0x08 then .reg r
  else if bf.toNat < 0x10 then .ind r
  else if bf.toNat < 0x18 then .idx r nw
  else if bf = 0x18#5 then .push
  else if bf = 0x19#5 then .peek
  else if bf = 0x1A#5 then .pick nw
  else if bf = 0x1B#5 then .sp
  else if bf = 0x1C#5 then .pc
  else if bf = 0x1D#5 then .ex
  else if bf = 0x1E#5 then .dir nw
  else .fl

/-! ### The opcode map (R100) -/

/-- The basic instruction of opcode `o`, which is not 0 (R81, R100). -/
def decodeBasic (o : BitVec 5) (b : OpB) (a : OpA) : Instr :=
  match o.toNat with
  | 0x01 => .set b a
  | 0x02 => .add b a
  | 0x03 => .sub b a
  | 0x04 => .mul b a
  | 0x05 => .mli b a
  | 0x06 => .div b a
  | 0x07 => .dvi b a
  | 0x08 => .mod b a
  | 0x09 => .mdi b a
  | 0x0A => .and b a
  | 0x0B => .bor b a
  | 0x0C => .xor b a
  | 0x0D => .shr b a
  | 0x0E => .asr b a
  | 0x0F => .shl b a
  | 0x10 => .ifb b a
  | 0x11 => .ifc b a
  | 0x12 => .ife b a
  | 0x13 => .ifn b a
  | 0x14 => .ifg b a
  | 0x15 => .ifa b a
  | 0x16 => .ifl b a
  | 0x17 => .ifu b a
  | 0x18 => .adc b a
  | 0x19 => .sbb b a
  | 0x1A => .cmp b a
  | 0x1B => .tst b a
  | 0x1C => .fxmul b a
  | 0x1D => .fxdiv b a
  | 0x1E => .ldb b a
  | _ => .reserved1F b a

/-- The special instruction of a sub-opcode (R82, R100). -/
def decodeSpecial (sub : BitVec 5) (a : OpA) : Instr :=
  match sub.toNat with
  | 0x00 => .nop a
  | 0x01 => .jsr a
  | 0x02 => .bsr a
  | 0x03 => .jz a
  | 0x04 => .jnz a
  | 0x05 => .jc a
  | 0x06 => .jnc a
  | 0x07 => .js a
  | 0x08 => .jns a
  | 0x09 => .jo a
  | 0x0A => .ja a
  | 0x0B => .jbe a
  | 0x0C => .jge a
  | 0x0D => .jl a
  | 0x0E => .jg a
  | 0x0F => .jle a
  | 0x10 => .int a
  | 0x11 => .iag a
  | 0x12 => .ias a
  | 0x13 => .rfi a
  | 0x14 => .iaq a
  | 0x15 => .reserved15 a
  | 0x16 => .reserved16 a
  | 0x17 => .reserved17 a
  | 0x18 => .neg a
  | 0x19 => .not a
  | 0x1A => .sxb a
  | 0x1B => .swp a
  | 0x1C => .bcopy a
  | 0x1D => .brk a
  | 0x1E => .hlt a
  | _ => .stb a

/-- The instruction of a first word and the next words of its operands; a next word the form does not call for is not
looked at. Total: every word is some row (R101). -/
def decodeInstr (w na nb : Word) : Instr :=
  if fieldO w = 0#5 then decodeSpecial (fieldB w) (decodeA (fieldA w) na)
  else decodeBasic (fieldO w) (decodeB (fieldB w) nb) (decodeA (fieldA w) na)

/-- Why a list of words is not an instruction. -/
inductive DecodeError where
  /-- there is no first word -/
  | noFirstWord
  /-- operand `a`'s next word is missing -/
  | noNextWordA
  /-- operand `b`'s next word is missing -/
  | noNextWordB
deriving DecidableEq, Repr

/-- Decoding a list of words: the instruction and the words after it; operand `a`'s next word comes first (R84). -/
def decode : List Word → Except DecodeError (Instr × List Word)
  | [] => .error .noFirstWord
  | w :: ws =>
    match nwA (fieldA w), ws with
    | true, [] => .error .noNextWordA
    | true, na :: ws' =>
      match hasNextB w, ws' with
      | true, [] => .error .noNextWordB
      | true, nb :: rest => .ok (decodeInstr w na nb, rest)
      | false, rest => .ok (decodeInstr w na 0#16, rest)
    | false, ws' =>
      match hasNextB w, ws' with
      | true, [] => .error .noNextWordB
      | true, nb :: rest => .ok (decodeInstr w 0#16 nb, rest)
      | false, rest => .ok (decodeInstr w 0#16 0#16, rest)

/-! ### The encoder -/

/-- The field of operand `a` (R87). -/
def OpA.field : OpA → BitVec 6
  | .reg r => 0b000#3 ++ r.code
  | .ind r => 0b001#3 ++ r.code
  | .idx r _ => 0b010#3 ++ r.code
  | .pop => 0x18#6
  | .peek => 0x19#6
  | .pick _ => 0x1A#6
  | .sp => 0x1B#6
  | .pc => 0x1C#6
  | .ex => 0x1D#6
  | .dir _ => 0x1E#6
  | .lit _ => 0x1F#6
  | .fl => 0x20#6
  | .inl v => (v + 0x22#16).setWidth 6

/-- Operand `a`'s next word, if it has one (R87). -/
def OpA.next : OpA → List Word
  | .idx _ nw | .pick nw | .dir nw | .lit nw => [nw]
  | _ => []

/-- The field of operand `b` (R88). -/
def OpB.field : OpB → BitVec 5
  | .reg r => 0b00#2 ++ r.code
  | .ind r => 0b01#2 ++ r.code
  | .idx r _ => 0b10#2 ++ r.code
  | .push => 0x18#5
  | .peek => 0x19#5
  | .pick _ => 0x1A#5
  | .sp => 0x1B#5
  | .pc => 0x1C#5
  | .ex => 0x1D#5
  | .dir _ => 0x1E#5
  | .fl => 0x1F#5

/-- Operand `b`'s next word, if it has one (R88). -/
def OpB.next : OpB → List Word
  | .idx _ nw | .pick nw | .dir nw => [nw]
  | _ => []

/-- The words of a basic instruction (R80, R81, R84). -/
def encodeBasic (o : BitVec 5) (b : OpB) (a : OpA) : List Word :=
  packFields a.field b.field o :: (a.next ++ b.next)

/-- The words of a special instruction (R80, R82). -/
def encodeSpecial (sub : BitVec 5) (a : OpA) : List Word :=
  packFields a.field sub 0#5 :: a.next

/-- The words of an instruction (R100). -/
def encode : Instr → List Word
  | .set b a => encodeBasic 0x01 b a
  | .add b a => encodeBasic 0x02 b a
  | .sub b a => encodeBasic 0x03 b a
  | .mul b a => encodeBasic 0x04 b a
  | .mli b a => encodeBasic 0x05 b a
  | .div b a => encodeBasic 0x06 b a
  | .dvi b a => encodeBasic 0x07 b a
  | .mod b a => encodeBasic 0x08 b a
  | .mdi b a => encodeBasic 0x09 b a
  | .and b a => encodeBasic 0x0A b a
  | .bor b a => encodeBasic 0x0B b a
  | .xor b a => encodeBasic 0x0C b a
  | .shr b a => encodeBasic 0x0D b a
  | .asr b a => encodeBasic 0x0E b a
  | .shl b a => encodeBasic 0x0F b a
  | .ifb b a => encodeBasic 0x10 b a
  | .ifc b a => encodeBasic 0x11 b a
  | .ife b a => encodeBasic 0x12 b a
  | .ifn b a => encodeBasic 0x13 b a
  | .ifg b a => encodeBasic 0x14 b a
  | .ifa b a => encodeBasic 0x15 b a
  | .ifl b a => encodeBasic 0x16 b a
  | .ifu b a => encodeBasic 0x17 b a
  | .adc b a => encodeBasic 0x18 b a
  | .sbb b a => encodeBasic 0x19 b a
  | .cmp b a => encodeBasic 0x1A b a
  | .tst b a => encodeBasic 0x1B b a
  | .fxmul b a => encodeBasic 0x1C b a
  | .fxdiv b a => encodeBasic 0x1D b a
  | .ldb b a => encodeBasic 0x1E b a
  | .reserved1F b a => encodeBasic 0x1F b a
  | .nop a => encodeSpecial 0x00 a
  | .jsr a => encodeSpecial 0x01 a
  | .bsr a => encodeSpecial 0x02 a
  | .jz a => encodeSpecial 0x03 a
  | .jnz a => encodeSpecial 0x04 a
  | .jc a => encodeSpecial 0x05 a
  | .jnc a => encodeSpecial 0x06 a
  | .js a => encodeSpecial 0x07 a
  | .jns a => encodeSpecial 0x08 a
  | .jo a => encodeSpecial 0x09 a
  | .ja a => encodeSpecial 0x0A a
  | .jbe a => encodeSpecial 0x0B a
  | .jge a => encodeSpecial 0x0C a
  | .jl a => encodeSpecial 0x0D a
  | .jg a => encodeSpecial 0x0E a
  | .jle a => encodeSpecial 0x0F a
  | .int a => encodeSpecial 0x10 a
  | .iag a => encodeSpecial 0x11 a
  | .ias a => encodeSpecial 0x12 a
  | .rfi a => encodeSpecial 0x13 a
  | .iaq a => encodeSpecial 0x14 a
  | .reserved15 a => encodeSpecial 0x15 a
  | .reserved16 a => encodeSpecial 0x16 a
  | .reserved17 a => encodeSpecial 0x17 a
  | .neg a => encodeSpecial 0x18 a
  | .not a => encodeSpecial 0x19 a
  | .sxb a => encodeSpecial 0x1A a
  | .swp a => encodeSpecial 0x1B a
  | .bcopy a => encodeSpecial 0x1C a
  | .brk a => encodeSpecial 0x1D a
  | .hlt a => encodeSpecial 0x1E a
  | .stb a => encodeSpecial 0x1F a

/-! ### Words from a number -/

/-- The three words of an instruction given as one number of `nbits` bits, bit 0 the least significant bit of the first
word; the bits above `nbits` are 0. -/
def tableWords (nbits w : Nat) : List Word :=
  let v := w % 2 ^ nbits
  [BitVec.ofNat 16 v, BitVec.ofNat 16 (v / 2 ^ 16), BitVec.ofNat 16 (v / 2 ^ 32)]

/-- The instruction the decoder reads from an instruction given as one number of `nbits` bits. -/
def decodeTableWord (nbits w : Nat) : Option Instr :=
  match decode (tableWords nbits w) with
  | .ok (i, _) => some i
  | .error _ => none

end Sys2Proof
end

