-- ==== Sys2Proof/Machine/State.lean ====
section
/-! DEFINITION. The state of the machine as plain data, the reasons a step can stop, and the state after reset. -/

namespace Sys2Proof.Machine

/-- The four flags of FL (10_state.md R18). Bits 15 to 4 read as zero and have no storage. -/
structure Flags where
  /-- bit 0, Zero -/
  z : Bool
  /-- bit 1, Carry (borrow after a subtraction) -/
  c : Bool
  /-- bit 2, Sign -/
  s : Bool
  /-- bit 3, Overflow -/
  o : Bool
deriving DecidableEq, Repr

/-- The eight general registers (10_state.md R10). -/
structure GRegs where
  a : Word
  b : Word
  c : Word
  x : Word
  y : Word
  z : Word
  i : Word
  j : Word
deriving DecidableEq, Repr

/-- Reading a general register; none is hard-wired (10_state.md R10). -/
def GRegs.get (g : GRegs) : Reg → Word
  | .A => g.a
  | .B => g.b
  | .C => g.c
  | .X => g.x
  | .Y => g.y
  | .Z => g.z
  | .I => g.i
  | .J => g.j

/-- Writing a general register. -/
def GRegs.set (g : GRegs) (r : Reg) (v : Word) : GRegs :=
  match r with
  | .A => { g with a := v }
  | .B => { g with b := v }
  | .C => { g with c := v }
  | .X => { g with x := v }
  | .Y => { g with y := v }
  | .Z => { g with z := v }
  | .I => { g with i := v }
  | .J => { g with j := v }

/-- RAM as (byte key, byte) cells: word W holds its high byte at key 2·W and its low byte at key 2·W + 1, which for
words up to 0x7FFF is the byte address (20_memory.md R42, R44). Keys rise strictly and no cell holds 0x00, the value an
unlisted key reads as (70_reset_and_hazards.md R362). -/
abbrev Memory := List Host.Cell

/-- What the CPU shows to the devices and the host (70_reset_and_hazards.md R376). -/
inductive BusEvent where
  /-- `DevRead(slot, offset)` for a slot from 1 to 31 -/
  | devRead (slot offset : Nat)
  /-- `DevWrite(slot, offset, v)` for a slot from 1 to 31 -/
  | devWrite (slot offset : Nat) (v : Word)
  /-- `DebugBreak` (49_block_system.md R273) -/
  | debugBreak
deriving DecidableEq, Repr

/-- Whether the host lets the CPU be stepped (70_reset_and_hazards.md R375, R377). -/
inductive HostStop where
  | running
  /-- stopped by a BRK with a debugger attached, until the host resumes it -/
  | debugBreak
  /-- stopped for good by the host -/
  | catastrophe
deriving DecidableEq, Repr

/-- The whole machine. INVENTORY.md's State heading names the rule behind each field. -/
structure State where
  /-- A, B, C, X, Y, Z, I, J -/
  regs : GRegs
  /-- PC; while an instruction executes, the address after the last of its words taken so far (10_state.md R14) -/
  pc : Word
  sp : Word
  ex : Word
  fl : Flags
  ia : Word
  /-- IQ: interrupts are queued and not dispatched -/
  iq : Bool
  /-- Q, oldest message first -/
  queue : List Word
  /-- HALTED -/
  halted : Bool
  /-- MPUF: an MPU violation in fault mode happened in the current instruction -/
  mpuf : Bool
  sysIqm : Word
  mpuBase : Word
  mpuLimit : Word
  mpuCtrl : Word
  sysTicks : Word
  mem : Memory
  /-- for each coming instruction boundary, the messages that arrive there (60_exceptions.md R304); none once used up -/
  arrivals : List (List Word)
  hostStop : HostStop
  /-- the model's own: what the environment supplies to the next draws (00_scope.md R6) -/
  supply : List Word
  /-- the model's own: how many draws the supply did not cover -/
  drawn : Nat
  /-- the model's own: the outputs so far, newest first -/
  bus : List BusEvent
  /-- the model's own: the sum of the instruction costs (70_reset_and_hazards.md R370) -/
  cycles : Nat
  /-- the installation (00_scope.md R4), constant during a run -/
  cfg : Config
deriving DecidableEq, Repr

/-- The value of a general register. -/
def State.reg (s : State) (r : Reg) : Word := s.regs.get r

/-- Why the machine stops. -/
inductive Fault where
  /-- Raised by an instruction that reads operand `b` = PUSH, which the source calls undefined (30_encoding.md R89;
  93_implementation_defined.md U1). Safe: nothing is said of what follows. -/
  | readOfPush
  /-- Raised by IAG, NEG, NOT, SXB and SWP with operand `a` = POP, a write the source calls undefined (30_encoding.md
  R89; 93_implementation_defined.md U2). Safe: nothing is said of what follows. -/
  | writeToPop
deriving DecidableEq, Repr

/-- Why an instruction has no meaning here. -/
inductive Refusal where
  /-- Raised by `exec` for an instruction that has no meaning yet, by its mnemonic. Safe: the run ends. -/
  | notModelled (mnemonic : String)
deriving DecidableEq, Repr

/-- The machine right after reset (10_state.md R32, 70_reset_and_hazards.md R360) in the installation
`Config.initial`. SYS_MPU_BASE, SYS_MPU_LIMIT (log entry 2) and SYS_TICKS (log entry 4) are DESIGN CHOICE, unsafe. -/
def State.reset : State where
  regs := ⟨0x0000#16, 0x0000#16, 0x0000#16, 0x0000#16, 0x0000#16, 0x0000#16, 0x0000#16, 0x0000#16⟩
  pc := 0x0000#16
  sp := 0x0000#16
  ex := 0x0000#16
  fl := ⟨false, false, false, false⟩
  ia := 0x0000#16
  iq := false
  queue := []
  halted := false
  mpuf := false
  sysIqm := 0x0000#16
  mpuBase := 0x0000#16
  mpuLimit := 0x0000#16
  mpuCtrl := 0x0000#16
  sysTicks := 0x0000#16
  mem := []
  arrivals := []
  hostStop := .running
  supply := []
  drawn := 0
  bus := []
  cycles := 0
  cfg := Config.initial

end Sys2Proof.Machine
end

