-- ==== Sys2Proof/Machine/Ops.lean ====
section
/-! DEFINITION. The named operations over the state: field updates, RAM, the System Control Block and the devices, the
MPU, the access primitives, the stack, interrupt arrival and dispatch, the instruction boundary. -/

namespace Sys2Proof.Machine

/-! ### Field updates -/

def State.setReg (s : State) (r : Reg) (v : Word) : State := { s with regs := s.regs.set r v }
def State.setPc (s : State) (v : Word) : State := { s with pc := v }
def State.setSp (s : State) (v : Word) : State := { s with sp := v }
def State.setEx (s : State) (v : Word) : State := { s with ex := v }
def State.setFl (s : State) (f : Flags) : State := { s with fl := f }
def State.setIa (s : State) (v : Word) : State := { s with ia := v }
def State.setIq (s : State) (v : Bool) : State := { s with iq := v }
def State.setQueue (s : State) (q : List Word) : State := { s with queue := q }
def State.setHalted (s : State) (v : Bool) : State := { s with halted := v }
def State.setMpuf (s : State) (v : Bool) : State := { s with mpuf := v }
def State.setSysIqm (s : State) (v : Word) : State := { s with sysIqm := v }
def State.setMpuBase (s : State) (v : Word) : State := { s with mpuBase := v }
def State.setMpuLimit (s : State) (v : Word) : State := { s with mpuLimit := v }
def State.setMpuCtrl (s : State) (v : Word) : State := { s with mpuCtrl := v }
def State.setSysTicks (s : State) (v : Word) : State := { s with sysTicks := v }
def State.setMem (s : State) (m : Memory) : State := { s with mem := m }
def State.setArrivals (s : State) (l : List (List Word)) : State := { s with arrivals := l }
def State.setHostStop (s : State) (h : HostStop) : State := { s with hostStop := h }
def State.setSupply (s : State) (l : List Word) : State := { s with supply := l }
def State.setDrawn (s : State) (n : Nat) : State := { s with drawn := n }

/-- One more output, newest first (70_reset_and_hazards.md R376). -/
def State.emit (s : State) (e : BusEvent) : State := { s with bus := e :: s.bus }

/-- Adds an instruction's cost (70_reset_and_hazards.md R370). -/
def State.charge (s : State) (n : Nat) : State := { s with cycles := s.cycles + n }

/-! ### Bytes of a word and RAM (20_memory.md R42, R44) -/

/-- Bits 15 to 8. -/
def hiByte (v : Word) : Byte := v.extractLsb' 8 8

/-- Bits 7 to 0. -/
def loByte (v : Word) : Byte := v.extractLsb' 0 8

/-- `{hi, lo}` (00_scope.md R5). -/
def mkWord (hi lo : Byte) : Word := hi ++ lo

/-- The byte at a key; an unlisted key reads as 0x00 (70_reset_and_hazards.md R362). -/
def Memory.readByte : Memory → Nat → Byte
  | [], _ => 0x00#8
  | (j, v) :: m, k => if j = k then v else Memory.readByte m k

/-- Puts a cell before the first cell of a higher key. -/
def Memory.insert : Memory → Nat → Byte → Memory
  | [], k, v => [(k, v)]
  | (j, u) :: m, k, v => if k < j then (k, v) :: (j, u) :: m else (j, u) :: Memory.insert m k v

/-- Writes one byte, keeping the canonical form: writing 0x00 leaves the key unlisted. -/
def Memory.writeByte (m : Memory) (k : Nat) (v : Byte) : Memory :=
  let rest := m.filter (fun c => c.1 != k)
  if v = 0x00#8 then rest else Memory.insert rest k v

/-- The canonical form: keys strictly rising, no cell equal to what an unlisted key reads as. -/
def Memory.wf : Memory → Bool
  | [] => true
  | (k, v) :: m => v != 0x00#8 && m.all (fun c => decide (k < c.1)) && Memory.wf m

/-- The word at a word address: big-endian, the high byte at the even key (20_memory.md R44). -/
def Memory.readWord (m : Memory) (w : Nat) : Word := mkWord (m.readByte (2 * w)) (m.readByte (2 * w + 1))

/-- Writes the word at a word address (20_memory.md R44). -/
def Memory.writeWord (m : Memory) (w : Nat) (v : Word) : Memory :=
  (m.writeByte (2 * w) (hiByte v)).writeByte (2 * w + 1) (loByte v)

/-! ### FL as a word (10_state.md R18, R19) -/

/-- `(O << 3) | (S << 2) | (C << 1) | Z`, bits 15 to 4 zero. -/
def Flags.toWord (f : Flags) : Word :=
  0#12 ++ BitVec.ofBool f.o ++ BitVec.ofBool f.s ++ BitVec.ofBool f.c ++ BitVec.ofBool f.z

/-- A write of `v` to FL stores `v[3:0]` and ignores `v[15:4]`. -/
def Flags.ofWord (v : Word) : Flags := ⟨v.getLsbD 0, v.getLsbD 1, v.getLsbD 2, v.getLsbD 3⟩

/-! ### Draws from the environment (00_scope.md R6; 93_implementation_defined.md section 2) -/

/-- The next word the environment supplies, or a free value. -/
def draw (s : State) : Word × State :=
  match s.supply with
  | v :: rest => (v, s.setSupply rest)
  | [] => (Config.freeDraw s.drawn, s.setDrawn (s.drawn + 1))

/-- A read of SYS_TICKS: the ticks that passed unseen are a draw, so the value read is one too, and the register is
the host's counter modulo 2^16 (60_exceptions.md R332, R336). DESIGN CHOICE (log entry 4). -/
def readTicks (s : State) : Word × State :=
  let d := draw s
  (d.2.sysTicks + d.1, d.2.setSysTicks (d.2.sysTicks + d.1))

/-! ### Devices (20_memory.md R46, 60_exceptions.md R331 to R334) -/

/-- `DevRead(0, offset)` (60_exceptions.md R332). -/
def scbRead (off : Nat) (s : State) : Word × State :=
  match off with
  | 0x00 => (0x4802#16, s)
  | 0x01 => (s.cfg.sysVer, s)
  | 0x02 => (BitVec.ofNat 16 s.cfg.ram.words, s)
  | 0x03 => (BitVec.ofNat 16 s.cfg.cycleBudget, s)
  | 0x04 => readTicks s
  | 0x05 => (s.sysIqm, s)
  | 0x06 => (s.mpuBase, s)
  | 0x07 => (s.mpuLimit, s)
  | 0x08 => (s.mpuCtrl, s)
  | 0x09 => draw s
  | 0x0A => (BitVec.ofNat 16 s.cfg.hwCount, s)
  | _ => (0x0000#16, s)

/-- `DevWrite(0, offset, v)` (60_exceptions.md R333). -/
def scbWrite (off : Nat) (v : Word) (s : State) : State :=
  match off with
  | 0x05 => s.setSysIqm v
  | 0x06 => s.setMpuBase v
  | 0x07 => s.setMpuLimit v
  | 0x08 => s.setMpuCtrl v
  | _ => s

/-- A read of a present device: the header words are its own, every other register is a draw (60_exceptions.md R334;
93_implementation_defined.md U22). -/
def deviceRead (d : Device) (off : Nat) (s : State) : Word × State :=
  match off with
  | 0x00 => (d.devId, s)
  | 0x01 => (d.devIdHi, s)
  | 0x02 => (d.devVer, s)
  | _ => draw s

/-- `slot = (addr − 0xE000) >> 8` (20_memory.md R46). -/
def slotOf (addr : Word) : Nat := (addr.toNat - 0xE000) / 256

/-- `offset = addr & 0xFF` (20_memory.md R46). -/
def offsetOf (addr : Word) : Nat := addr.toNat % 256

/-- `DevRead(slot, offset)`: slot 0 is the System Control Block, an empty slot reads 0x0000 (20_memory.md R46). -/
def devRead (slot off : Nat) (s : State) : Word × State :=
  if slot = 0 then scbRead off s
  else
    match s.cfg.devices.lookup slot with
    | some d => deviceRead d off (s.emit (.devRead slot off))
    | none => (0x0000#16, s.emit (.devRead slot off))

/-- `DevWrite(slot, offset, v)`: what a device makes of it is the device's (20_memory.md R46;
93_implementation_defined.md U22). -/
def devWrite (slot off : Nat) (v : Word) (s : State) : State :=
  if slot = 0 then scbWrite off v s else s.emit (.devWrite slot off v)

/-! ### Physical access, below the MPU (20_memory.md R47) -/

/-- `PhysRead(addr)`. -/
def physRead (addr : Word) (s : State) : Word × State :=
  if 0xE000 ≤ addr.toNat then devRead (slotOf addr) (offsetOf addr) s
  else if addr.toNat < s.cfg.ram.words then (s.mem.readWord addr.toNat, s)
  else (0x0000#16, s)

/-- `PhysWrite(addr, v)`. -/
def physWrite (addr v : Word) (s : State) : State :=
  if 0xE000 ≤ addr.toNat then devWrite (slotOf addr) (offsetOf addr) v s
  else if addr.toNat < s.cfg.ram.words then s.setMem (s.mem.writeWord addr.toNat v)
  else s

/-! ### The memory protection unit (20_memory.md R60 to R66) -/

/-- The kind of an access (20_memory.md R62). -/
inductive Access where
  | read
  | write
deriving DecidableEq, Repr

/-- `MpuViolation(addr, kind)` (20_memory.md R62). -/
def mpuViolation (addr : Word) (k : Access) (s : State) : Bool :=
  let inside := decide (s.mpuBase.toNat ≤ addr.toNat) && decide (addr.toNat < s.mpuLimit.toNat)
  s.mpuCtrl.getLsbD 0 && decide (addr.toNat < 0xE000) && !inside && !(s.mpuCtrl.getLsbD 2 && decide (k = .read))

/-- Fault mode, SYS_MPU_CTRL bit 1 (20_memory.md R61). -/
def mpuFaultMode (s : State) : Bool := s.mpuCtrl.getLsbD 1

/-- `raise MpuFault()` in fault mode; nothing in silent mode (20_memory.md R63, R66). -/
def noteViolation (s : State) : State := if mpuFaultMode s then s.setMpuf true else s

/-- `MemRead(addr, 1)` (20_memory.md R50). -/
def memRead (addr : Word) (s : State) : Word × State :=
  if mpuViolation addr .read s then (0x0000#16, noteViolation s) else physRead addr s

/-- `MemWrite(addr, 1, v)` (20_memory.md R51). -/
def memWrite (addr v : Word) (s : State) : State :=
  if mpuViolation addr .write s then noteViolation s else physWrite addr v s

/-! ### Next words (30_encoding.md R85) -/

/-- PC moves past one word of the instruction, modulo 2^16 (10_state.md R12, R13). -/
def advancePc (s : State) : State := s.setPc (s.pc + 1#16)

/-- `Fetch()` of a next word whose value the instruction already holds: the read happens here, with all a read does, and
PC moves past the word (30_encoding.md R85). -/
def fetchNext (s : State) : State := advancePc (memRead s.pc s).2

/-! ### The stack (10_state.md R16) -/

/-- `Push(v)`. -/
def push (v : Word) (s : State) : State := memWrite (s.sp - 1#16) v (s.setSp (s.sp - 1#16))

/-- `Pop()`. -/
def pop (s : State) : Word × State :=
  let r := memRead s.sp s
  (r.1, r.2.setSp (r.2.sp + 1#16))

/-! ### Taking an interrupt, and returning (60_exceptions.md R306 to R313, 47_interrupt_instr.md R253) -/

/-- The two pushes, IA to PC, the message to A, and the end of a halt: the part `Dispatch` and
`QueueOverflowFault` share (60_exceptions.md R308, R313). -/
def enterHandler (m : Word) (s : State) : State :=
  let s1 := push s.pc s
  let s2 := push (s1.reg .A) s1
  ((s2.setPc s2.ia).setReg .A m).setHalted false

/-- `Dispatch(M)`: a violation of its pushes in fault mode puts one 0xFFFE on the queue if it has room
(60_exceptions.md R308). -/
def dispatch (m : Word) (s : State) : State :=
  let t := enterHandler m (s.setIq true)
  if t.mpuf then
    if t.queue.length < 256 then (t.setMpuf false).setQueue (t.queue ++ [0xFFFE#16]) else t.setMpuf false
  else t

/-- `raise QueueOverflowFault()`: IQ stays, a violation noted in this instruction is dropped (60_exceptions.md
R313). -/
def overflowFault (s : State) : State := (enterHandler 0xFFFF#16 s).setMpuf false

/-- The queue policy of `Enqueue(M)` (60_exceptions.md R312). -/
def enqueueMsg (m : Word) (s : State) : State :=
  if s.queue.length < 256 then s.setQueue (s.queue ++ [m])
  else if s.sysIqm = 0x0001#16 then s.setQueue (s.queue.drop 1 ++ [m])
  else if s.sysIqm = 0x0002#16 then overflowFault s
  else s

/-- `Enqueue(M)`, with the wake-up of `HLT_WAKE_ON_QUEUED` (60_exceptions.md R312, R318). -/
def enqueue (m : Word) (s : State) : State :=
  let t := enqueueMsg m s
  if t.halted && t.cfg.hltWakeOnQueued then t.setHalted false else t

/-- `Arrive(M)` (60_exceptions.md R306). -/
def arrive (m : Word) (s : State) : State :=
  if s.ia = 0x0000#16 then s else if s.iq then enqueue m s else dispatch m s

/-- `Deliver(M)`, an interrupt leaving the queue (60_exceptions.md R305). -/
def deliver (m : Word) (s : State) : State := if s.ia = 0x0000#16 then s else dispatch m s

/-- The first half of `Boundary()`: one queued interrupt, while IQ is clear (60_exceptions.md R305). -/
def deliverQueued (s : State) : State :=
  if s.iq then s
  else
    match s.queue with
    | [] => s
    | m :: rest => deliver m (s.setQueue rest)

/-- `ExternalArrivals()` of this boundary, each arriving in order (60_exceptions.md R304, R305). -/
def takeArrivals (s : State) : State :=
  match s.arrivals with
  | [] => s
  | ms :: later => ms.foldl (fun t m => arrive m t) (s.setArrivals later)

/-- `Boundary()` (60_exceptions.md R305). -/
def boundary (s : State) : State := takeArrivals (deliverQueued s)

/-- The MPU fault of the instruction that ends (20_memory.md R66, 60_exceptions.md R305). -/
def reportViolation (s : State) : State := if s.mpuf then arrive 0xFFFE#16 (s.setMpuf false) else s

/-- `EndOfInstruction()` (60_exceptions.md R305). -/
def endOfInstruction (s : State) : State := boundary (reportViolation s)

/-- Return from interrupt: A, then PC, come off the stack, and IQ clears (47_interrupt_instr.md R253). -/
def returnFromInterrupt (s : State) : State :=
  let a := pop s
  let p := pop (a.2.setReg .A a.1)
  (p.2.setPc p.1).setIq false

end Sys2Proof.Machine
end

