-- ==== Sys2Proof/Machine/Flags.lean ====
section
/-! DEFINITION. What each computing instruction makes of its operands: the result, EX if it writes it, and the flags
(10_state.md R20 to R27), by exact arithmetic narrowed at the end (00_scope.md R5); and the conditions of the jumps and
the skips. -/

namespace Sys2Proof.Machine

/-- The result of a computation: the word for the destination, the word for EX if EX is written, and FL. -/
structure AluOut where
  r : Word
  ex : Option Word
  fl : Flags
deriving DecidableEq, Repr

/-- `w16(n)` of an integer (00_scope.md R5). -/
def w16 (n : Int) : Word := BitVec.ofInt 16 n

/-- Whether an exact signed result is outside −32768 to 32767 (10_state.md R22, R23). -/
def outside16 (n : Int) : Bool := decide (n < -32768) || decide (32767 < n)

/-- Flags with Z and S from the result (10_state.md R21 `ZS`). -/
def flagsOf (r : Word) (c o : Bool) : Flags := ⟨decide (r = 0x0000#16), c, r.getLsbD 15, o⟩

/-! ### Arithmetic group (10_state.md R22) -/

/-- `b + a + cin` with its carry and overflow (10_state.md R22). EX is 0x0001 on carry, else 0x0000. -/
def addWith (cin : Bool) (vb va : Word) : AluOut :=
  let t := vb.toNat + va.toNat + cin.toNat
  let r := BitVec.ofNat 16 t
  let c := decide (t > 0xFFFF)
  let o := (vb.getLsbD 15 == va.getLsbD 15) && (r.getLsbD 15 != vb.getLsbD 15)
  ⟨r, some (if c then 0x0001#16 else 0x0000#16), flagsOf r c o⟩

/-- `b − a − cin` with its borrow and overflow (10_state.md R22). EX is 0xFFFF on borrow, else 0x0000. -/
def subWith (cin : Bool) (vb va : Word) : AluOut :=
  let t : Int := (vb.toNat : Int) - va.toNat - cin.toNat
  let r := w16 t
  let c := decide (t < 0)
  let o := (vb.getLsbD 15 != va.getLsbD 15) && (r.getLsbD 15 != vb.getLsbD 15)
  ⟨r, some (if c then 0xFFFF#16 else 0x0000#16), flagsOf r c o⟩

/-- ADD (40_arithmetic.md R131). -/
def addOut (_ : Flags) (vb va : Word) : AluOut := addWith false vb va

/-- SUB (40_arithmetic.md R132). -/
def subOut (_ : Flags) (vb va : Word) : AluOut := subWith false vb va

/-- ADC: the carry in is the old C (43_ext_arith_compare.md R190). -/
def adcOut (f : Flags) (vb va : Word) : AluOut := addWith f.c vb va

/-- SBB: the borrow in is the old C (43_ext_arith_compare.md R191). -/
def sbbOut (f : Flags) (vb va : Word) : AluOut := subWith f.c vb va

/-- CMP: SUB's computation, EX unchanged (43_ext_arith_compare.md R192). -/
def cmpOut (_ : Flags) (vb va : Word) : AluOut := { subWith false vb va with ex := none }

/-- NEG: `0 − v`, EX unchanged (48_unary.md R260). -/
def negOut (_ : Flags) (v : Word) : AluOut := { subWith false 0x0000#16 v with ex := none }

/-! ### Multiply group (10_state.md R23) -/

/-- MUL (40_arithmetic.md R133). -/
def mulOut (_ : Flags) (vb va : Word) : AluOut :=
  let p := vb.toNat * va.toNat
  let r := BitVec.ofNat 16 p
  let e := BitVec.ofNat 16 (p >>> 16)
  ⟨r, some e, flagsOf r (decide (e ≠ 0x0000#16)) false⟩

/-- MLI (40_arithmetic.md R134). -/
def mliOut (_ : Flags) (vb va : Word) : AluOut :=
  let p := vb.toInt * va.toInt
  let r := w16 p
  let e := w16 (p >>> (16 : Nat))
  ⟨r, some e, flagsOf r (decide (e ≠ 0x0000#16)) (outside16 p)⟩

/-- FXMUL (44_fixed_point.md R200). -/
def fxmulOut (_ : Flags) (vb va : Word) : AluOut :=
  let p := vb.toInt * va.toInt
  let q := p >>> (8 : Nat)
  let r := w16 q
  let e := w16 (p % 256)
  ⟨r, some e, flagsOf r (decide (e ≠ 0x0000#16)) (outside16 q)⟩

/-! ### Divide group (10_state.md R24) -/

/-- DIV (40_arithmetic.md R135). -/
def divOut (_ : Flags) (vb va : Word) : AluOut :=
  if va = 0x0000#16 then ⟨0x0000#16, some 0x0000#16, flagsOf 0x0000#16 false false⟩
  else
    let r := BitVec.ofNat 16 (vb.toNat / va.toNat)
    ⟨r, some (BitVec.ofNat 16 ((vb.toNat <<< 16) / va.toNat)), flagsOf r false false⟩

/-- DVI, rounding toward zero (40_arithmetic.md R136). -/
def dviOut (_ : Flags) (vb va : Word) : AluOut :=
  if va = 0x0000#16 then ⟨0x0000#16, some 0x0000#16, flagsOf 0x0000#16 false false⟩
  else
    let r := w16 (vb.toInt.tdiv va.toInt)
    ⟨r, some (w16 ((vb.toInt * 65536).tdiv va.toInt)), flagsOf r false false⟩

/-- MOD: EX is written for a zero divisor only (40_arithmetic.md R137). -/
def modOut (_ : Flags) (vb va : Word) : AluOut :=
  if va = 0x0000#16 then ⟨0x0000#16, some 0x0000#16, flagsOf 0x0000#16 false false⟩
  else
    let r := BitVec.ofNat 16 (vb.toNat % va.toNat)
    ⟨r, none, flagsOf r false false⟩

/-- MDI: the remainder has the dividend's sign; EX is written for a zero divisor only (40_arithmetic.md R138). -/
def mdiOut (_ : Flags) (vb va : Word) : AluOut :=
  if va = 0x0000#16 then ⟨0x0000#16, some 0x0000#16, flagsOf 0x0000#16 false false⟩
  else
    let r := w16 (vb.toInt.tmod va.toInt)
    ⟨r, none, flagsOf r false false⟩

/-- FXDIV: EX is the remainder of the scaled numerator (44_fixed_point.md R201). -/
def fxdivOut (_ : Flags) (vb va : Word) : AluOut :=
  if va = 0x0000#16 then ⟨0x0000#16, some 0x0000#16, flagsOf 0x0000#16 false false⟩
  else
    let n := vb.toInt * 256
    let r := w16 (n.tdiv va.toInt)
    ⟨r, some (w16 (n.tmod va.toInt)), flagsOf r false false⟩

/-! ### Bitwise group (10_state.md R25) -/

/-- A bitwise result: C and O cleared, EX unchanged. -/
def bitwiseOut (r : Word) : AluOut := ⟨r, none, flagsOf r false false⟩

/-- AND and TST (41_bitwise_shift.md R150, 43_ext_arith_compare.md R193). -/
def andOut (_ : Flags) (vb va : Word) : AluOut := bitwiseOut (vb &&& va)

/-- BOR (41_bitwise_shift.md R151). -/
def borOut (_ : Flags) (vb va : Word) : AluOut := bitwiseOut (vb ||| va)

/-- XOR (41_bitwise_shift.md R152). -/
def xorOut (_ : Flags) (vb va : Word) : AluOut := bitwiseOut (vb ^^^ va)

/-- NOT (48_unary.md R261). -/
def notOut (_ : Flags) (v : Word) : AluOut := bitwiseOut (v ^^^ 0xFFFF#16)

/-! ### Shift group (10_state.md R26, 41_bitwise_shift.md R153 to R156) -/

/-- SHR. C is `vb[n−1]` for 1 ≤ n ≤ 15, else 0 (41_bitwise_shift.md R153). -/
def shrOut (_ : Flags) (vb va : Word) : AluOut :=
  let n := va.toNat
  let r := BitVec.ofNat 16 (vb.toNat >>> n)
  let c := decide (1 ≤ n) && decide (n ≤ 15) && vb.getLsbD (n - 1)
  ⟨r, some (BitVec.ofNat 16 ((vb.toNat <<< 16) >>> n)), flagsOf r c false⟩

/-- ASR. C is 0 for n = 0, `vb[n−1]` for 1 ≤ n ≤ 15, the sign bit for n ≥ 16 (41_bitwise_shift.md R154). -/
def asrOut (_ : Flags) (vb va : Word) : AluOut :=
  let n := va.toNat
  let r := w16 (vb.toInt >>> n)
  let c := if n = 0 then false else if n ≤ 15 then vb.getLsbD (n - 1) else vb.getLsbD 15
  ⟨r, some (BitVec.ofNat 16 ((vb.toNat <<< 16) >>> n)), flagsOf r c false⟩

/-- SHL. C is `vb[16−n]` for 1 ≤ n ≤ 15, else 0 (41_bitwise_shift.md R155). -/
def shlOut (_ : Flags) (vb va : Word) : AluOut :=
  let n := va.toNat
  let t := vb.toNat <<< n
  let r := BitVec.ofNat 16 t
  let c := decide (1 ≤ n) && decide (n ≤ 15) && vb.getLsbD (16 - n)
  ⟨r, some (BitVec.ofNat 16 (t >>> 16)), flagsOf r c false⟩

/-! ### Bytes (10_state.md R27) -/

/-- The byte of a word that a byte address names: even, the high byte; odd, the low byte (45_byte_access.md R210). -/
def byteOf (ba wd : Word) : Byte := if ba.getLsbD 0 then loByte wd else hiByte wd

/-- A word with the byte a byte address names replaced (45_byte_access.md R211). -/
def withByte (ba wd : Word) (v : Byte) : Word :=
  if ba.getLsbD 0 then mkWord (hiByte wd) v else mkWord v (loByte wd)

/-- LDB: zero-extended; Z from the byte, S cleared, C and O kept (45_byte_access.md R210). -/
def ldbOut (f : Flags) (ba wd : Word) : AluOut :=
  let v := byteOf ba wd
  ⟨v.setWidth 16, none, ⟨decide (v = 0x00#8), f.c, false, f.o⟩⟩

/-- SXB: bits 7 to 0 sign-extended; C and O kept (48_unary.md R262). -/
def sxbOut (f : Flags) (v : Word) : AluOut :=
  let r := (loByte v).signExtend 16
  ⟨r, none, flagsOf r f.c f.o⟩

/-- SWP: the bytes exchanged, no flag changed (48_unary.md R263). -/
def swpOut (f : Flags) (v : Word) : AluOut := ⟨mkWord (loByte v) (hiByte v), none, f⟩

/-! ### Conditions of the jumps (46_subroutine_jumps.md R223 to R235) -/

def condJz (f : Flags) : Bool := f.z
def condJnz (f : Flags) : Bool := !f.z
def condJc (f : Flags) : Bool := f.c
def condJnc (f : Flags) : Bool := !f.c
def condJs (f : Flags) : Bool := f.s
def condJns (f : Flags) : Bool := !f.s
def condJo (f : Flags) : Bool := f.o
def condJa (f : Flags) : Bool := !f.c && !f.z
def condJbe (f : Flags) : Bool := f.c || f.z
def condJge (f : Flags) : Bool := f.s == f.o
def condJl (f : Flags) : Bool := f.s != f.o
def condJg (f : Flags) : Bool := !f.z && (f.s == f.o)
def condJle (f : Flags) : Bool := f.z || (f.s != f.o)

/-! ### Conditions of the skips (42_cond_skip.md R172 to R179) -/

def condIfb (vb va : Word) : Bool := decide (vb &&& va ≠ 0x0000#16)
def condIfc (vb va : Word) : Bool := decide (vb &&& va = 0x0000#16)
def condIfe (vb va : Word) : Bool := decide (vb = va)
def condIfn (vb va : Word) : Bool := decide (vb ≠ va)
def condIfg (vb va : Word) : Bool := decide (vb.toNat > va.toNat)
def condIfa (vb va : Word) : Bool := decide (vb.toInt > va.toInt)
def condIfl (vb va : Word) : Bool := decide (vb.toNat < va.toNat)
def condIfu (vb va : Word) : Bool := decide (vb.toInt < va.toInt)

end Sys2Proof.Machine
end

