-- ==== Sys2Proof/Machine/Operands.lean ====
section
/-! DEFINITION. Operands: locations, their evaluation with side effects, their costs (30_encoding.md R87 to R92,
70_reset_and_hazards.md R371), and the shapes of instruction that share them (30_encoding.md R93). -/

namespace Sys2Proof.Machine

/-- A location (30_encoding.md R89). -/
inductive Loc where
  | reg (r : Reg)
  | sp
  | pc
  | ex
  | fl
  | mem (addr : Word)
  | memPush (addr : Word)
  | memPop (addr : Word)
  | lit (v : Word)
deriving DecidableEq, Repr

/-! ### Evaluation -/

/-- `LocA(af)`: the location of operand `a`, with its effects on PC and SP (30_encoding.md R90). Its next word was read
right after the first word, before the meaning began (`fetchInstr`), so PC only moves past it. -/
def locA (a : OpA) (s : State) : Loc × State :=
  match a with
  | .reg r => (.reg r, s)
  | .ind r => (.mem (s.reg r), s)
  | .idx r nw => (.mem (s.reg r + nw), advancePc s)
  | .pop => (.memPop s.sp, s.setSp (s.sp + 1#16))
  | .peek => (.mem s.sp, s)
  | .pick nw => (.mem (s.sp + nw), advancePc s)
  | .sp => (.sp, s)
  | .pc => (.pc, s)
  | .ex => (.ex, s)
  | .dir nw => (.mem nw, advancePc s)
  | .lit nw => (.lit nw, advancePc s)
  | .fl => (.fl, s)
  | .inl v => (.lit v, s)

/-- `LocB(bf)`: the location of operand `b`, with its effects on PC and SP (30_encoding.md R92). Its next word is fetched
here, after everything operand `a` does (00_scope.md R7, 30_encoding.md R91). -/
def locB (b : OpB) (s : State) : Loc × State :=
  match b with
  | .reg r => (.reg r, s)
  | .ind r => (.mem (s.reg r), s)
  | .idx r nw => (.mem (s.reg r + nw), fetchNext s)
  | .push => (.memPush (s.sp - 1#16), s.setSp (s.sp - 1#16))
  | .peek => (.mem s.sp, s)
  | .pick nw => (.mem (s.sp + nw), fetchNext s)
  | .sp => (.sp, s)
  | .pc => (.pc, s)
  | .ex => (.ex, s)
  | .dir nw => (.mem nw, fetchNext s)
  | .fl => (.fl, s)

/-- The value at a location that may be read (30_encoding.md R89). -/
def loadLoc (l : Loc) (s : State) : Word × State :=
  match l with
  | .reg r => (s.reg r, s)
  | .sp => (s.sp, s)
  | .pc => (s.pc, s)
  | .ex => (s.ex, s)
  | .fl => (s.fl.toWord, s)
  | .mem addr | .memPop addr | .memPush addr => memRead addr s
  | .lit v => (v, s)

/-- `ReadLoc(l)`: reading PUSH is undefined (30_encoding.md R89). -/
def readLoc (l : Loc) (s : State) : Except Fault (Word × State) :=
  match l with
  | .memPush _ => .error .readOfPush
  | l => .ok (loadLoc l s)

/-- The write to a location that may be written; a literal discards it (30_encoding.md R89). -/
def storeLoc (l : Loc) (v : Word) (s : State) : State :=
  match l with
  | .reg r => s.setReg r v
  | .sp => s.setSp v
  | .pc => s.setPc v
  | .ex => s.setEx v
  | .fl => s.setFl (Flags.ofWord v)
  | .mem addr | .memPush addr | .memPop addr => memWrite addr v s
  | .lit _ => s

/-- `WriteLoc(l, v)`: writing POP is undefined (30_encoding.md R89). -/
def writeLoc (l : Loc) (v : Word) (s : State) : Except Fault State :=
  match l with
  | .memPop _ => .error .writeToPop
  | l => .ok (storeLoc l v s)

/-- `ReadA(af)`: the value of operand `a` as a source (30_encoding.md R91). `LocA` gives no PUSH, so it is always
defined. -/
def readA (a : OpA) (s : State) : Word × State :=
  let l := locA a s
  loadLoc l.1 l.2

/-- Operand `a` is not evaluated; PC still moves past its next word (30_encoding.md R102, 46_subroutine_jumps.md
R222). -/
def passA (a : OpA) (s : State) : State :=
  match a with
  | .idx _ _ | .pick _ | .dir _ | .lit _ => advancePc s
  | _ => s

/-! ### Costs (70_reset_and_hazards.md R371) -/

/-- The cost of operand `a`. -/
def costA : OpA → Nat
  | .reg _ | .sp | .pc | .ex | .fl | .inl _ => 0
  | .ind _ | .pop | .peek | .lit _ => 1
  | .idx _ _ | .pick _ | .dir _ => 2

/-- The cost of operand `b`. -/
def costB : OpB → Nat
  | .reg _ | .sp | .pc | .ex | .fl => 0
  | .ind _ | .push | .peek => 1
  | .idx _ _ | .pick _ | .dir _ => 2

/-! ### Shapes of instruction (30_encoding.md R93) -/

/-- EX, if the computation writes it. -/
def putEx (e : Option Word) (s : State) : State :=
  match e with
  | some v => s.setEx v
  | none => s

/-- EX, then FL, then the destination (00_scope.md R7). -/
def putOut (l : Loc) (o : AluOut) (s : State) : Host.Outcome State Fault Refusal :=
  match writeLoc l o.r ((putEx o.ex s).setFl o.fl) with
  | .ok t => .next t
  | .error f => .fault f

/-- A basic instruction that reads `b`, computes, and writes `b`. -/
def readModifyWrite (base : Nat) (f : Flags → Word → Word → AluOut) (b : OpB) (a : OpA) (s : State) :
    Host.Outcome State Fault Refusal :=
  let va := readA a s
  let lb := locB b va.2
  match readLoc lb.1 lb.2 with
  | .error e => .fault e
  | .ok vb => putOut lb.1 (f vb.2.fl vb.1 va.1) (vb.2.charge (base + costA a + costB b))

/-- A basic instruction that reads `b` and writes only the flags. -/
def compareOnly (base : Nat) (f : Flags → Word → Word → AluOut) (b : OpB) (a : OpA) (s : State) :
    Host.Outcome State Fault Refusal :=
  let va := readA a s
  let lb := locB b va.2
  match readLoc lb.1 lb.2 with
  | .error e => .fault e
  | .ok vb => .next ((vb.2.charge (base + costA a + costB b)).setFl (f vb.2.fl vb.1 va.1).fl)

/-- A special instruction whose `a` is read, computed on, and written through one location (48_unary.md R264). -/
def unaryOp (base : Nat) (f : Flags → Word → AluOut) (a : OpA) (s : State) : Host.Outcome State Fault Refusal :=
  let la := locA a s
  match readLoc la.1 la.2 with
  | .error e => .fault e
  | .ok v => putOut la.1 (f v.2.fl v.1) (v.2.charge (base + costA a))

/-- `Skip()`: over the instruction at PC and, as long as that one is an IFx, over the next (42_cond_skip.md R171),
counting the instructions skipped. Within 65,536 instructions PC meets the reserved words of slot 0, which read 0x0000
and are no IFx, so the bound is never reached (log entry 23). -/
def skipFrom : Nat → State → Nat × State
  | 0, s => (0, s)
  | fuel + 1, s =>
    let w := memRead s.pc s
    let t := w.2.setPc (w.2.pc + BitVec.ofNat 16 (lengthOf w.1))
    if 0x10 ≤ (fieldO w.1).toNat ∧ (fieldO w.1).toNat ≤ 0x17 then
      let r := skipFrom fuel t
      (r.1 + 1, r.2)
    else (1, t)

/-- An IFx: `Skip()` when the condition is false (42_cond_skip.md R170); each skipped instruction costs 1
(70_reset_and_hazards.md R371). -/
def skipUnless (cond : Word → Word → Bool) (b : OpB) (a : OpA) (s : State) : Host.Outcome State Fault Refusal :=
  let va := readA a s
  let lb := locB b va.2
  match readLoc lb.1 lb.2 with
  | .error e => .fault e
  | .ok vb =>
    let t := vb.2.charge (2 + costA a + costB b)
    if cond vb.1 va.1 then .next t
    else
      let k := skipFrom 0x10000 t
      .next (k.2.charge k.1)

/-- A conditional jump: not taken, operand `a` is not evaluated (46_subroutine_jumps.md R222). -/
def jumpIf (cond : Flags → Bool) (a : OpA) (s : State) : Host.Outcome State Fault Refusal :=
  if cond s.fl then
    let t := readA a s
    .next ((t.2.setPc t.1).charge (3 + costA a))
  else .next ((passA a s).charge (2 + costA a))

/-- A special instruction that does nothing: its operand is not evaluated (49_block_system.md R277). -/
def doNothing (cost : Nat) (a : OpA) (s : State) : Host.Outcome State Fault Refusal :=
  .next ((passA a s).charge cost)

end Sys2Proof.Machine
end

