-- ==== Sys2Proof/Machine/Arithmetic.lean ====
section
/-! DEFINITION. Basic opcodes 0x01 to 0x09: SET and integer arithmetic (40_arithmetic.md). -/

namespace Sys2Proof.Machine

/-- SET b, a: the destination is written and not read (40_arithmetic.md R130). -/
def execSet (b : OpB) (a : OpA) (s : State) : Host.Outcome State Fault Refusal :=
  let va := readA a s
  let lb := locB b va.2
  match writeLoc lb.1 va.1 (lb.2.charge (1 + costA a + costB b)) with
  | .ok t => .next t
  | .error f => .fault f

/-- ADD b, a (40_arithmetic.md R131). -/
def execAdd (b : OpB) (a : OpA) (s : State) : Host.Outcome State Fault Refusal :=
  readModifyWrite 2 addOut b a s

/-- SUB b, a (40_arithmetic.md R132). -/
def execSub (b : OpB) (a : OpA) (s : State) : Host.Outcome State Fault Refusal :=
  readModifyWrite 2 subOut b a s

/-- MUL b, a (40_arithmetic.md R133). -/
def execMul (b : OpB) (a : OpA) (s : State) : Host.Outcome State Fault Refusal :=
  readModifyWrite 3 mulOut b a s

/-- MLI b, a (40_arithmetic.md R134). -/
def execMli (b : OpB) (a : OpA) (s : State) : Host.Outcome State Fault Refusal :=
  readModifyWrite 3 mliOut b a s

/-- DIV b, a (40_arithmetic.md R135). -/
def execDiv (b : OpB) (a : OpA) (s : State) : Host.Outcome State Fault Refusal :=
  readModifyWrite 4 divOut b a s

/-- DVI b, a (40_arithmetic.md R136). -/
def execDvi (b : OpB) (a : OpA) (s : State) : Host.Outcome State Fault Refusal :=
  readModifyWrite 4 dviOut b a s

/-- MOD b, a (40_arithmetic.md R137). -/
def execMod (b : OpB) (a : OpA) (s : State) : Host.Outcome State Fault Refusal :=
  readModifyWrite 4 modOut b a s

/-- MDI b, a (40_arithmetic.md R138). -/
def execMdi (b : OpB) (a : OpA) (s : State) : Host.Outcome State Fault Refusal :=
  readModifyWrite 4 mdiOut b a s

end Sys2Proof.Machine
end

