-- ==== Sys2Proof/Machine/Bitwise.lean ====
section
/-! DEFINITION. Basic opcodes 0x0A to 0x0F: bitwise operations and shifts (41_bitwise_shift.md). -/

namespace Sys2Proof.Machine

/-- AND b, a (41_bitwise_shift.md R150). -/
def execAnd (b : OpB) (a : OpA) (s : State) : Host.Outcome State Fault Refusal :=
  readModifyWrite 1 andOut b a s

/-- BOR b, a (41_bitwise_shift.md R151). -/
def execBor (b : OpB) (a : OpA) (s : State) : Host.Outcome State Fault Refusal :=
  readModifyWrite 1 borOut b a s

/-- XOR b, a (41_bitwise_shift.md R152). -/
def execXor (b : OpB) (a : OpA) (s : State) : Host.Outcome State Fault Refusal :=
  readModifyWrite 1 xorOut b a s

/-- SHR b, a (41_bitwise_shift.md R153). -/
def execShr (b : OpB) (a : OpA) (s : State) : Host.Outcome State Fault Refusal :=
  readModifyWrite 1 shrOut b a s

/-- ASR b, a (41_bitwise_shift.md R154). -/
def execAsr (b : OpB) (a : OpA) (s : State) : Host.Outcome State Fault Refusal :=
  readModifyWrite 1 asrOut b a s

/-- SHL b, a (41_bitwise_shift.md R155). -/
def execShl (b : OpB) (a : OpA) (s : State) : Host.Outcome State Fault Refusal :=
  readModifyWrite 1 shlOut b a s

end Sys2Proof.Machine
end

