-- ==== Sys2Proof/Machine/ByteAccess.lean ====
section
/-! DEFINITION. Byte access: LDB and STB (45_byte_access.md). -/

namespace Sys2Proof.Machine

/-- `WA = BA >> 1`, the word a byte address lies in (45_byte_access.md R212). -/
def wordOfByte (ba : Word) : Word := ba >>> 1

/-- LDB b, a: the word is read after `b` is resolved; the destination is not read (45_byte_access.md R210). -/
def execLdb (b : OpB) (a : OpA) (s : State) : Host.Outcome State Fault Refusal :=
  let ba := readA a s
  let lb := locB b ba.2
  let wd := memRead (wordOfByte ba.1) lb.2
  putOut lb.1 (ldbOut wd.2.fl ba.1 wd.1) (wd.2.charge (2 + costA a + costB b))

/-- STB a: one read, then one write, of the word the byte lies in (45_byte_access.md R211). -/
def execStb (a : OpA) (s : State) : Host.Outcome State Fault Refusal :=
  let ba := readA a s
  let old := memRead (wordOfByte ba.1) ba.2
  let new := withByte ba.1 old.1 (loByte (old.2.reg .A))
  .next ((memWrite (wordOfByte ba.1) new old.2).charge (2 + costA a))

end Sys2Proof.Machine
end

