-- ==== Sys2Proof/Machine/Extended.lean ====
section
/-! DEFINITION. Basic opcodes 0x18 to 0x1B: ADC, SBB, CMP, TST (43_ext_arith_compare.md). -/

namespace Sys2Proof.Machine

/-- ADC b, a (43_ext_arith_compare.md R190). -/
def execAdc (b : OpB) (a : OpA) (s : State) : Host.Outcome State Fault Refusal :=
  readModifyWrite 2 adcOut b a s

/-- SBB b, a (43_ext_arith_compare.md R191). -/
def execSbb (b : OpB) (a : OpA) (s : State) : Host.Outcome State Fault Refusal :=
  readModifyWrite 2 sbbOut b a s

/-- CMP b, a: `b` and EX unchanged (43_ext_arith_compare.md R192). -/
def execCmp (b : OpB) (a : OpA) (s : State) : Host.Outcome State Fault Refusal :=
  compareOnly 2 cmpOut b a s

/-- TST b, a: `b` and EX unchanged (43_ext_arith_compare.md R193). -/
def execTst (b : OpB) (a : OpA) (s : State) : Host.Outcome State Fault Refusal :=
  compareOnly 1 andOut b a s

end Sys2Proof.Machine
end

