-- ==== Sys2Proof/Machine/FixedPoint.lean ====
section
/-! DEFINITION. Basic opcodes 0x1C and 0x1D: 8.8 fixed-point multiply and divide (44_fixed_point.md). -/

namespace Sys2Proof.Machine

/-- FXMUL b, a (44_fixed_point.md R200). -/
def execFxmul (b : OpB) (a : OpA) (s : State) : Host.Outcome State Fault Refusal :=
  readModifyWrite 4 fxmulOut b a s

/-- FXDIV b, a (44_fixed_point.md R201). -/
def execFxdiv (b : OpB) (a : OpA) (s : State) : Host.Outcome State Fault Refusal :=
  readModifyWrite 8 fxdivOut b a s

end Sys2Proof.Machine
end

