-- ==== Sys2Proof/Machine/Interrupt.lean ====
section
/-! DEFINITION. Special sub-opcodes 0x10 to 0x14: INT, IAG, IAS, RFI, IAQ (47_interrupt_instr.md). -/

namespace Sys2Proof.Machine

/-- INT a: the message arrives at once (47_interrupt_instr.md R250). -/
def execInt (a : OpA) (s : State) : Host.Outcome State Fault Refusal :=
  let m := readA a s
  .next ((arrive m.1 m.2).charge (4 + costA a))

/-- IAG a: `a` is a write-only destination (47_interrupt_instr.md R251). -/
def execIag (a : OpA) (s : State) : Host.Outcome State Fault Refusal :=
  let la := locA a s
  match writeLoc la.1 la.2.ia (la.2.charge (1 + costA a)) with
  | .ok t => .next t
  | .error f => .fault f

/-- IAS a (47_interrupt_instr.md R252). -/
def execIas (a : OpA) (s : State) : Host.Outcome State Fault Refusal :=
  let v := readA a s
  .next ((v.2.setIa v.1).charge (1 + costA a))

/-- RFI: `a` is not evaluated (47_interrupt_instr.md R253, 30_encoding.md R102). -/
def execRfi (a : OpA) (s : State) : Host.Outcome State Fault Refusal :=
  .next ((returnFromInterrupt (passA a s)).charge 3)

/-- IAQ a (47_interrupt_instr.md R254). -/
def execIaq (a : OpA) (s : State) : Host.Outcome State Fault Refusal :=
  let v := readA a s
  .next ((v.2.setIq (decide (v.1 ≠ 0x0000#16))).charge (1 + costA a))

end Sys2Proof.Machine
end

