-- ==== Sys2Proof/Machine/Jumps.lean ====
section
/-! DEFINITION. Special sub-opcodes 0x01 to 0x0F: JSR, BSR and the conditional jumps (46_subroutine_jumps.md). -/

namespace Sys2Proof.Machine

/-- JSR a: the target is evaluated before the push (46_subroutine_jumps.md R220). -/
def execJsr (a : OpA) (s : State) : Host.Outcome State Fault Refusal :=
  let t := readA a s
  .next (((push t.2.pc t.2).setPc t.1).charge (3 + costA a))

/-- BSR a: relative to the address that is pushed (46_subroutine_jumps.md R221). -/
def execBsr (a : OpA) (s : State) : Host.Outcome State Fault Refusal :=
  let t := readA a s
  .next (((push t.2.pc t.2).setPc (t.2.pc + t.1)).charge (3 + costA a))

/-- JZ a (46_subroutine_jumps.md R223). -/
def execJz (a : OpA) (s : State) : Host.Outcome State Fault Refusal :=
  jumpIf condJz a s

/-- JNZ a (46_subroutine_jumps.md R224). -/
def execJnz (a : OpA) (s : State) : Host.Outcome State Fault Refusal :=
  jumpIf condJnz a s

/-- JC a (46_subroutine_jumps.md R225). -/
def execJc (a : OpA) (s : State) : Host.Outcome State Fault Refusal :=
  jumpIf condJc a s

/-- JNC a (46_subroutine_jumps.md R226). -/
def execJnc (a : OpA) (s : State) : Host.Outcome State Fault Refusal :=
  jumpIf condJnc a s

/-- JS a (46_subroutine_jumps.md R227). -/
def execJs (a : OpA) (s : State) : Host.Outcome State Fault Refusal :=
  jumpIf condJs a s

/-- JNS a (46_subroutine_jumps.md R228). -/
def execJns (a : OpA) (s : State) : Host.Outcome State Fault Refusal :=
  jumpIf condJns a s

/-- JO a (46_subroutine_jumps.md R229). -/
def execJo (a : OpA) (s : State) : Host.Outcome State Fault Refusal :=
  jumpIf condJo a s

/-- JA a (46_subroutine_jumps.md R230). -/
def execJa (a : OpA) (s : State) : Host.Outcome State Fault Refusal :=
  jumpIf condJa a s

/-- JBE a (46_subroutine_jumps.md R231). -/
def execJbe (a : OpA) (s : State) : Host.Outcome State Fault Refusal :=
  jumpIf condJbe a s

/-- JGE a (46_subroutine_jumps.md R232). -/
def execJge (a : OpA) (s : State) : Host.Outcome State Fault Refusal :=
  jumpIf condJge a s

/-- JL a (46_subroutine_jumps.md R233). -/
def execJl (a : OpA) (s : State) : Host.Outcome State Fault Refusal :=
  jumpIf condJl a s

/-- JG a (46_subroutine_jumps.md R234). -/
def execJg (a : OpA) (s : State) : Host.Outcome State Fault Refusal :=
  jumpIf condJg a s

/-- JLE a (46_subroutine_jumps.md R235). -/
def execJle (a : OpA) (s : State) : Host.Outcome State Fault Refusal :=
  jumpIf condJle a s

end Sys2Proof.Machine
end

