-- ==== Sys2Proof/Machine/Skip.lean ====
section
/-! DEFINITION. Basic opcodes 0x10 to 0x17: conditional skip (42_cond_skip.md). -/

namespace Sys2Proof.Machine

/-- IFB b, a (42_cond_skip.md R172). -/
def execIfb (b : OpB) (a : OpA) (s : State) : Host.Outcome State Fault Refusal :=
  skipUnless condIfb b a s

/-- IFC b, a (42_cond_skip.md R173). -/
def execIfc (b : OpB) (a : OpA) (s : State) : Host.Outcome State Fault Refusal :=
  skipUnless condIfc b a s

/-- IFE b, a (42_cond_skip.md R174). -/
def execIfe (b : OpB) (a : OpA) (s : State) : Host.Outcome State Fault Refusal :=
  skipUnless condIfe b a s

/-- IFN b, a (42_cond_skip.md R175). -/
def execIfn (b : OpB) (a : OpA) (s : State) : Host.Outcome State Fault Refusal :=
  skipUnless condIfn b a s

/-- IFG b, a (42_cond_skip.md R176). -/
def execIfg (b : OpB) (a : OpA) (s : State) : Host.Outcome State Fault Refusal :=
  skipUnless condIfg b a s

/-- IFA b, a (42_cond_skip.md R177). -/
def execIfa (b : OpB) (a : OpA) (s : State) : Host.Outcome State Fault Refusal :=
  skipUnless condIfa b a s

/-- IFL b, a (42_cond_skip.md R178). -/
def execIfl (b : OpB) (a : OpA) (s : State) : Host.Outcome State Fault Refusal :=
  skipUnless condIfl b a s

/-- IFU b, a (42_cond_skip.md R179). -/
def execIfu (b : OpB) (a : OpA) (s : State) : Host.Outcome State Fault Refusal :=
  skipUnless condIfu b a s

end Sys2Proof.Machine
end

