-- ==== Sys2Proof/Machine/System.lean ====
section
/-! DEFINITION. BCOPY, BRK, HLT, NOP and the reserved encodings (49_block_system.md). -/

namespace Sys2Proof.Machine

/-! ### Block copy (49_block_system.md R271, R272) -/

/-- Whether an access would be a violation in fault mode, which ends a block copy (49_block_system.md R272). -/
def abortsCopy (addr : Word) (k : Access) (s : State) : Bool := mpuViolation addr k s && mpuFaultMode s

/-- The word of index `i`: one read, then one write. True if one of the two violates in fault mode, and then the copy
stops there (49_block_system.md R271, R272). -/
def copyWord (src dst : Word) (i : Nat) (s : State) : Bool × State :=
  let from_ := src + BitVec.ofNat 16 i
  let to_ := dst + BitVec.ofNat 16 i
  let w := memRead from_ s
  if abortsCopy from_ .read s then (true, w.2)
  else (abortsCopy to_ .write w.2, memWrite to_ w.1 w.2)

/-- The words of the listed indices, in order; the index of the violating word if the copy stops. -/
def copyWords (src dst : Word) : List Nat → State → Option Nat × State
  | [], s => (none, s)
  | i :: rest, s =>
    let r := copyWord src dst i s
    if r.1 then (some i, r.2) else copyWords src dst rest r.2

/-- A, B and C after the copy (49_block_system.md R271), or at the violating word `i` (R272): C is what remains. -/
def copyEnd (src dst : Word) (n : Nat) (backward : Bool) (stop : Option Nat) (s : State) : State :=
  match stop with
  | none =>
    ((s.setReg .A (src + BitVec.ofNat 16 n)).setReg .B (dst + BitVec.ofNat 16 n)).setReg .C 0x0000#16
  | some i =>
    ((s.setReg .A (src + BitVec.ofNat 16 i)).setReg .B (dst + BitVec.ofNat 16 i)).setReg .C
      (BitVec.ofNat 16 (if backward then i + 1 else n - i))

/-- BCOPY: last word first when A < B, else first word first (49_block_system.md R271). -/
def execBcopy (a : OpA) (s : State) : Host.Outcome State Fault Refusal :=
  let t := passA a s
  let src := t.reg .A
  let dst := t.reg .B
  let n := (t.reg .C).toNat
  let backward := decide (src.toNat < dst.toNat)
  let r := copyWords src dst (if backward then (List.range n).reverse else List.range n) t
  .next ((copyEnd src dst n backward r.1 r.2).charge (2 + n))

/-! ### System instructions -/

/-- BRK: with a debugger attached, DebugBreak goes out and the CPU stops after this instruction; else nothing
(49_block_system.md R273). -/
def execBrk (a : OpA) (s : State) : Host.Outcome State Fault Refusal :=
  let t := (passA a s).charge 1
  if t.cfg.debuggerAttached then .next ((t.emit .debugBreak).setHostStop .debugBreak) else .next t

/-- HLT (49_block_system.md R274). -/
def execHlt (a : OpA) (s : State) : Host.Outcome State Fault Refusal :=
  .next (((passA a s).setHalted true).charge 1)

/-! ### No-operation encodings -/

/-- NOP: `a` is evaluated and its value dropped (49_block_system.md R275). -/
def execNop (a : OpA) (s : State) : Host.Outcome State Fault Refusal :=
  .next ((readA a s).2.charge (1 + costA a))

/-- The reserved basic opcode 0x1F: `a` is evaluated, `b` resolved, neither read nor written (49_block_system.md
R276). -/
def execReserved1F (b : OpB) (a : OpA) (s : State) : Host.Outcome State Fault Refusal :=
  let va := readA a s
  .next ((locB b va.2).2.charge (1 + costA a + costB b))

/-- The reserved special sub-opcode 0x15 (49_block_system.md R277). -/
def execReserved15 (a : OpA) (s : State) : Host.Outcome State Fault Refusal := doNothing 1 a s

/-- The reserved special sub-opcode 0x16 (49_block_system.md R277). -/
def execReserved16 (a : OpA) (s : State) : Host.Outcome State Fault Refusal := doNothing 1 a s

/-- The reserved special sub-opcode 0x17 (49_block_system.md R277). -/
def execReserved17 (a : OpA) (s : State) : Host.Outcome State Fault Refusal := doNothing 1 a s

end Sys2Proof.Machine
end

