-- ==== Sys2Proof/Machine/Unary.lean ====
section
/-! DEFINITION. Special sub-opcodes 0x18 to 0x1B: NEG, NOT, SXB, SWP (48_unary.md). -/

namespace Sys2Proof.Machine

/-- NEG a (48_unary.md R260). -/
def execNeg (a : OpA) (s : State) : Host.Outcome State Fault Refusal :=
  unaryOp 1 negOut a s

/-- NOT a (48_unary.md R261). -/
def execNot (a : OpA) (s : State) : Host.Outcome State Fault Refusal :=
  unaryOp 1 notOut a s

/-- SXB a (48_unary.md R262). -/
def execSxb (a : OpA) (s : State) : Host.Outcome State Fault Refusal :=
  unaryOp 1 sxbOut a s

/-- SWP a (48_unary.md R263). -/
def execSwp (a : OpA) (s : State) : Host.Outcome State Fault Refusal :=
  unaryOp 1 swpOut a s

end Sys2Proof.Machine
end

