-- ==== Sys2Proof/Machine/Dispatch.lean ====
section
/-! DEFINITION. One arm per instruction: each a direct call of its meaning. -/

namespace Sys2Proof.Machine

def exec (i : Instr) (s : State) : Host.Outcome State Fault Refusal :=
  match i with
  | .set b a => Sys2Proof.Machine.execSet b a s
  | .add b a => Sys2Proof.Machine.execAdd b a s
  | .sub b a => Sys2Proof.Machine.execSub b a s
  | .mul b a => Sys2Proof.Machine.execMul b a s
  | .mli b a => Sys2Proof.Machine.execMli b a s
  | .div b a => Sys2Proof.Machine.execDiv b a s
  | .dvi b a => Sys2Proof.Machine.execDvi b a s
  | .mod b a => Sys2Proof.Machine.execMod b a s
  | .mdi b a => Sys2Proof.Machine.execMdi b a s
  | .and b a => Sys2Proof.Machine.execAnd b a s
  | .bor b a => Sys2Proof.Machine.execBor b a s
  | .xor b a => Sys2Proof.Machine.execXor b a s
  | .shr b a => Sys2Proof.Machine.execShr b a s
  | .asr b a => Sys2Proof.Machine.execAsr b a s
  | .shl b a => Sys2Proof.Machine.execShl b a s
  | .ifb b a => Sys2Proof.Machine.execIfb b a s
  | .ifc b a => Sys2Proof.Machine.execIfc b a s
  | .ife b a => Sys2Proof.Machine.execIfe b a s
  | .ifn b a => Sys2Proof.Machine.execIfn b a s
  | .ifg b a => Sys2Proof.Machine.execIfg b a s
  | .ifa b a => Sys2Proof.Machine.execIfa b a s
  | .ifl b a => Sys2Proof.Machine.execIfl b a s
  | .ifu b a => Sys2Proof.Machine.execIfu b a s
  | .adc b a => Sys2Proof.Machine.execAdc b a s
  | .sbb b a => Sys2Proof.Machine.execSbb b a s
  | .cmp b a => Sys2Proof.Machine.execCmp b a s
  | .tst b a => Sys2Proof.Machine.execTst b a s
  | .fxmul b a => Sys2Proof.Machine.execFxmul b a s
  | .fxdiv b a => Sys2Proof.Machine.execFxdiv b a s
  | .ldb b a => Sys2Proof.Machine.execLdb b a s
  | .reserved1F b a => Sys2Proof.Machine.execReserved1F b a s
  | .nop a => Sys2Proof.Machine.execNop a s
  | .jsr a => Sys2Proof.Machine.execJsr a s
  | .bsr a => Sys2Proof.Machine.execBsr a s
  | .jz a => Sys2Proof.Machine.execJz a s
  | .jnz a => Sys2Proof.Machine.execJnz a s
  | .jc a => Sys2Proof.Machine.execJc a s
  | .jnc a => Sys2Proof.Machine.execJnc a s
  | .js a => Sys2Proof.Machine.execJs a s
  | .jns a => Sys2Proof.Machine.execJns a s
  | .jo a => Sys2Proof.Machine.execJo a s
  | .ja a => Sys2Proof.Machine.execJa a s
  | .jbe a => Sys2Proof.Machine.execJbe a s
  | .jge a => Sys2Proof.Machine.execJge a s
  | .jl a => Sys2Proof.Machine.execJl a s
  | .jg a => Sys2Proof.Machine.execJg a s
  | .jle a => Sys2Proof.Machine.execJle a s
  | .int a => Sys2Proof.Machine.execInt a s
  | .iag a => Sys2Proof.Machine.execIag a s
  | .ias a => Sys2Proof.Machine.execIas a s
  | .rfi a => Sys2Proof.Machine.execRfi a s
  | .iaq a => Sys2Proof.Machine.execIaq a s
  | .reserved15 a => Sys2Proof.Machine.execReserved15 a s
  | .reserved16 a => Sys2Proof.Machine.execReserved16 a s
  | .reserved17 a => Sys2Proof.Machine.execReserved17 a s
  | .neg a => Sys2Proof.Machine.execNeg a s
  | .not a => Sys2Proof.Machine.execNot a s
  | .sxb a => Sys2Proof.Machine.execSxb a s
  | .swp a => Sys2Proof.Machine.execSwp a s
  | .bcopy a => Sys2Proof.Machine.execBcopy a s
  | .brk a => Sys2Proof.Machine.execBrk a s
  | .hlt a => Sys2Proof.Machine.execHlt a s
  | .stb a => Sys2Proof.Machine.execStb a s

end Sys2Proof.Machine
end

