-- ==== Sys2Proof/Machine/Fetch.lean ====
section
/-! DEFINITION. Reading the instruction at PC (30_encoding.md R84 to R86, R94). -/

namespace Sys2Proof.Machine

/-- The instruction at PC and the state its meaning starts from, with PC past its FIRST word. The first word and operand
`a`'s next word are read here. Operand `b`'s next word is fetched by the meaning, once operand `a` has been evaluated
(30_encoding.md R91, R92): its value here is the one that fetch will read, and the looking ahead leaves no trace in the
state (log entry 10). -/
def fetchInstr (s : State) : Instr × State :=
  let w := memRead s.pc s
  let na := if nwA (fieldA w.1) then memRead (s.pc + 1#16) w.2 else (0x0000#16, w.2)
  let start := na.2.setPc (s.pc + 1#16)
  let afterA := (readA (decodeA (fieldA w.1) na.1) start).2
  let nb := if hasNextB w.1 then (memRead afterA.pc afterA).1 else 0x0000#16
  (decodeInstr w.1 na.1 nb, start)

end Sys2Proof.Machine
end

