-- ==== Sys2Proof/Machine/HostActions.lean ====
section
/-! DEFINITION. What the host may do to the machine between two steps (70_reset_and_hazards.md R375). -/

namespace Sys2Proof.Machine

/-- The ROM image from RAM word `i` on; a word with no RAM to go to is dropped (70_reset_and_hazards.md R362). -/
def loadRom (ramWords : Nat) : Nat → List Word → Memory → Memory
  | _, [], m => m
  | i, w :: ws, m => loadRom ramWords (i + 1) ws (if i < ramWords then m.writeWord i w else m)

/-- `Reset()` and the boot copy, for any installation (70_reset_and_hazards.md R360 to R363). -/
def boot (cfg : Config) : State :=
  { State.reset with
    mpuBase := cfg.mpuBaseReset
    mpuLimit := cfg.mpuLimitReset
    mem := loadRom cfg.ram.words 0 cfg.rom []
    cfg := cfg }

/-- An external reset of a running machine: the boot of its installation (70_reset_and_hazards.md R360). What belongs
to the host or the environment (SYS_TICKS, the coming inputs, the outputs seen so far) is not the CPU's to reset. -/
def externalReset (s : State) : State :=
  { boot s.cfg with
    sysTicks := s.sysTicks
    arrivals := s.arrivals
    supply := s.supply
    drawn := s.drawn
    bus := s.bus
    cycles := s.cycles }

/-- `Tick`: SYS_TICKS moves on by one, modulo 2^16 (70_reset_and_hazards.md R375). -/
def tick (s : State) : State := s.setSysTicks (s.sysTicks + 1#16)

/-- `RaiseInterrupt(M)`: M joins the messages of the next boundary (70_reset_and_hazards.md R375). -/
def raiseInterrupt (m : Word) (s : State) : State :=
  match s.arrivals with
  | [] => s.setArrivals [[m]]
  | ms :: later => s.setArrivals ((ms ++ [m]) :: later)

/-- The host resumes the CPU after a DebugBreak (70_reset_and_hazards.md R375). -/
def resumeAfterBreak (s : State) : State :=
  if s.hostStop = .debugBreak then s.setHostStop .running else s

/-- `CatastrophicHalt`: no further step is taken (70_reset_and_hazards.md R377). -/
def catastrophicHalt (s : State) : State := s.setHostStop .catastrophe

end Sys2Proof.Machine
end

