-- ==== Sys2Proof/Machine/Step.lean ====
section
/-! DEFINITION. One step of the machine (30_encoding.md R94, 60_exceptions.md R318), and an instruction placed where the
next step fetches it. -/

namespace Sys2Proof.Machine

/-- The end of an instruction, or the reason there is none. -/
def finishStep : Host.Outcome State Fault Refusal → Host.Outcome State Fault Refusal
  | .next t => .next (endOfInstruction t)
  | .fault f => .fault f
  | .refused r => .refused r

/-- `Step()`: stopped by the host, nothing happens until the host acts; halted, only the boundary; else one instruction
and its end (30_encoding.md R94, 60_exceptions.md R318, 70_reset_and_hazards.md R375). -/
def step (s : State) : Host.Outcome State Fault Refusal :=
  match s.hostStop with
  | .debugBreak => .next s
  | .catastrophe => .next s
  | .running =>
    if s.halted then .next (boundary s)
    else finishStep (exec (fetchInstr s).1 (fetchInstr s).2)

/-- Whether a fetch of three words at `pc` reads installed RAM and no violation. -/
def canFetch3 (s : State) : Bool :=
  decide (s.pc.toNat + 3 ≤ s.cfg.ram.words) && !mpuViolation s.pc .read s &&
    !mpuViolation (s.pc + 1#16) .read s && !mpuViolation (s.pc + 2#16) .read s

/-- `s` with an instruction of `nbits` bits, and words of zeros after it, stored where `step` fetches its next
instruction. PC and the MPU are touched only where that fetch would not read RAM. -/
def State.withFetchWord (s : State) (nbits w : Nat) : State :=
  let r := (s.setHalted false).setHostStop .running
  let t := if decide (r.pc.toNat + 3 ≤ r.cfg.ram.words) then r else r.setPc 0x0000#16
  let u := if canFetch3 t then t else t.setMpuCtrl (t.mpuCtrl &&& 0xFFFE#16)
  let ws := tableWords nbits w
  u.setMem (((u.mem.writeWord u.pc.toNat (ws.getD 0 0#16)).writeWord (u.pc.toNat + 1) (ws.getD 1 0#16)).writeWord
    (u.pc.toNat + 2) (ws.getD 2 0#16))

end Sys2Proof.Machine
end

