-- ==== Sys2Proof/Safety.lean ====
section
/-! DEFINITION. What a statement about this machine is said in: the invariant of the states between two steps, the end of
a run, the operands of an instruction, and what an instruction leaves as it was. -/

namespace Sys2Proof.Machine

/-! ### States between two steps -/

/-- What holds between two steps: RAM is in its canonical form and lists installed RAM only (20_memory.md R43), the queue
is at most 256 long (60_exceptions.md R312), no violation is left unreported (20_memory.md R66), and a halted CPU that
could be woken has nothing it could be woken by (49_block_system.md R274). -/
structure Inv (s : State) : Prop where
  memory : s.mem.wf = true
  installed : ∀ c ∈ s.mem, c.1 < 2 * s.cfg.ram.words
  queue : s.queue.length ≤ 256
  mpuf : s.mpuf = false
  waiting : s.halted = true → s.ia ≠ 0x0000#16 → s.iq = true ∨ s.queue = []

/-- Halted for good: with IA = 0, or with IQ set and no wake-up by queueing (70_reset_and_hazards.md R380; of the
second, log entry 32). -/
def haltedForGood (s : State) : Bool := s.halted && (decide (s.ia = 0x0000#16) || (s.iq && !s.cfg.hltWakeOnQueued))

/-- A state in which the run has ended: halted for good, or stopped by a CatastrophicHalt (70_reset_and_hazards.md R377,
R380). -/
def ended (s : State) : Bool := haltedForGood s || decide (s.hostStop = .catastrophe)

/-- A state in which the run has ended if the host never resumes the CPU: an ended one, or a debug break
(70_reset_and_hazards.md R380). -/
def endedUnlessResumed (s : State) : Bool := ended s || decide (s.hostStop = .debugBreak)

/-- What a step answers where the run ends: a state in which it has ended, or no state at all
(70_reset_and_hazards.md R380). -/
def endsRun : Host.Outcome State Fault Refusal → Bool
  | .next t => ended t
  | .fault _ => true
  | .refused _ => true

/-- A safe step: no operand use the source calls undefined (30_encoding.md R89). -/
def SafeStep (s : State) : Prop := ∃ t, step s = .next t

/-! ### Operands -/

/-- The operands of a basic instruction: the value of `a`, the value of `b` before the instruction, where `b` is, and the
state once all three are known (00_scope.md R7, events 2 to 4). -/
structure Evaluated where
  va : Word
  vb : Word
  dest : Loc
  after : State

/-- `a`, then `b`'s location, then `b`'s value. -/
def evaluate (b : OpB) (a : OpA) (s : State) : Evaluated :=
  let va := readA a s
  let lb := locB b va.2
  let vb := loadLoc lb.1 lb.2
  ⟨va.1, vb.1, lb.1, vb.2⟩

/-- The word address a location stores to, if it is in memory. -/
def Loc.target : Loc → List Word
  | .mem w | .memPush w | .memPop w => [w]
  | _ => []

/-- SP after operand `a`: only POP moves it (30_encoding.md R90). -/
def spAfterA (a : OpA) (sp : Word) : Word := if a = .pop then sp + 1#16 else sp

/-- SP after operand `b`: only PUSH moves it (30_encoding.md R92). -/
def spAfterB (b : OpB) (sp : Word) : Word := if b = .push then sp - 1#16 else sp

/-- Nothing is between an access of `addr` and RAM: the word is installed and the MPU lets the access pass
(20_memory.md R47, R62). -/
def plainRam (addr : Word) (k : Access) (s : State) : Prop :=
  addr.toNat < s.cfg.ram.words ∧ mpuViolation addr k s = false

/-! ### What stays as it was -/

/-- Every byte of memory outside the two bytes of each listed word reads as before. -/
def MemoryKept (ws : List Word) (s t : State) : Prop :=
  ∀ k, (∀ w ∈ ws, k ≠ 2 * w.toNat ∧ k ≠ 2 * w.toNat + 1) → t.mem.readByte k = s.mem.readByte k

/-- The writable registers of the System Control Block are as before, but for one a store to a listed address names
(60_exceptions.md R333). -/
structure ControlKept (ws : List Word) (s t : State) : Prop where
  iqm : 0xE005#16 ∉ ws → t.sysIqm = s.sysIqm
  base : 0xE006#16 ∉ ws → t.mpuBase = s.mpuBase
  limit : 0xE007#16 ∉ ws → t.mpuLimit = s.mpuLimit
  ctrl : 0xE008#16 ∉ ws → t.mpuCtrl = s.mpuCtrl

/-- The interrupt state, the halt and what the host and the installation fix are as before. -/
structure SystemKept (s t : State) : Prop where
  ia : t.ia = s.ia
  iq : t.iq = s.iq
  queue : t.queue = s.queue
  halted : t.halted = s.halted
  arrivals : t.arrivals = s.arrivals
  hostStop : t.hostStop = s.hostStop
  cfg : t.cfg = s.cfg

/-- `t` is `s` but for what a read may change: the environment's draws, SYS_TICKS, the outputs to the devices, and the
note of a violation. -/
def EnvStep (s t : State) : Prop :=
  ∃ supply drawn bus sysTicks mpuf,
    t = { s with supply := supply, drawn := drawn, bus := bus, sysTicks := sysTicks, mpuf := mpuf }

/-- Every general register but the listed ones is as before. -/
def RegsKept (rs : List Reg) (s t : State) : Prop := ∀ r, r ∉ rs → t.reg r = s.reg r

/-! ### Control -/

/-- `s` with PC past every next word of operand `a`, which is not evaluated (30_encoding.md R102). -/
def passed (a : OpA) (s : State) : State := s.setPc (s.pc + BitVec.ofNat 16 a.next.length)

/-- `s` after the skip of the instruction at PC, each skipped instruction charged (42_cond_skip.md R171). -/
def afterSkip (s : State) : State := (skipFrom 0x10000 s).2.charge (skipFrom 0x10000 s).1

/-- An IFx whose condition is `p`: `t` is the state after its operands and its cost (42_cond_skip.md R170). -/
def SkipActs (i : Instr) (p : Prop) (s t : State) : Prop :=
  (p → exec i s = .next t) ∧ (¬p → exec i s = .next (afterSkip t))

/-- A conditional jump whose condition is `p`: taken, PC is the value of `a`; not taken, `a` is passed over
(46_subroutine_jumps.md R222). -/
def JumpActs (i : Instr) (a : OpA) (p : Prop) (s : State) : Prop :=
  (p → exec i s = .next (((readA a s).2.setPc (readA a s).1).charge (3 + costA a))) ∧
  (¬p → exec i s = .next ((passed a s).charge (2 + costA a)))

/-- A basic instruction that writes `b`: the result, EX and the flags, from the values of `b` and `a`. -/
def Writes (i : Instr) (b : OpB) (a : OpA) (cost : Nat) (ex : Option Word) (fl : Flags) (r : Word) (s : State) : Prop :=
  exec i s = .next (storeLoc (evaluate b a s).dest r
    ((putEx ex ((evaluate b a s).after.charge (cost + costA a + costB b))).setFl fl))

/-- The flags of a result: Z and S are its own, C and O are given (10_state.md R21). -/
def flagsFor (r : Word) (c o : Prop) [Decidable c] [Decidable o] : Flags :=
  ⟨decide (r.toNat = 0), decide c, decide (0x8000 ≤ r.toNat), decide o⟩

/-! ### What an instruction may write, by its form -/

/-- The general register operand `a` is, if it is one. -/
def gprA : OpA → List Reg
  | .reg r => [r]
  | _ => []

/-- The general register operand `b` is, if it is one. -/
def gprB : OpB → List Reg
  | .reg r => [r]
  | _ => []

/-- Where an instruction puts its result (30_encoding.md R93). -/
inductive Dest where
  | none
  | b (b : OpB)
  | a (a : OpA)

/-- The destination operand of an instruction, if it has one (30_encoding.md R93). -/
def destOf : Instr → Dest
  | .set b _ | .add b _ | .sub b _ | .mul b _ | .mli b _ | .div b _ | .dvi b _ | .mod b _ | .mdi b _
  | .and b _ | .bor b _ | .xor b _ | .shr b _ | .asr b _ | .shl b _ | .adc b _ | .sbb b _
  | .fxmul b _ | .fxdiv b _ | .ldb b _ => .b b
  | .iag a | .neg a | .not a | .sxb a | .swp a => .a a
  | .ifb _ _ | .ifc _ _ | .ife _ _ | .ifn _ _ | .ifg _ _ | .ifa _ _ | .ifl _ _ | .ifu _ _
  | .cmp _ _ | .tst _ _ | .reserved1F _ _
  | .nop _ | .jsr _ | .bsr _ | .jz _ | .jnz _ | .jc _ | .jnc _ | .js _ | .jns _ | .jo _ | .ja _ | .jbe _
  | .jge _ | .jl _ | .jg _ | .jle _ | .int _ | .ias _ | .rfi _ | .iaq _
  | .reserved15 _ | .reserved16 _ | .reserved17 _ | .bcopy _ | .brk _ | .hlt _ | .stb _ => .none

/-- The general registers an instruction may write: its destination, and those it names by itself. -/
def writesRegs (i : Instr) : List Reg :=
  match i with
  | .int _ | .rfi _ => [.A]
  | .bcopy _ => [.A, .B, .C]
  | _ =>
    match destOf i with
    | .none => []
    | .b b => gprB b
    | .a a => gprA a

/-- The word addresses an instruction may store to, computed as its meaning computes them: the destination operand's
address; the return address's place for JSR and BSR; the interrupt frame for INT; the byte's word for STB; the
destination range for BCOPY. -/
def storesTo (i : Instr) (s : State) : List Word :=
  match i with
  | .jsr a | .bsr a => [(readA a s).2.sp - 1#16]
  | .int a => [(readA a s).2.sp - 1#16, (readA a s).2.sp - 2#16]
  | .stb a => [wordOfByte (readA a s).1]
  | .bcopy _ => (List.range (s.reg .C).toNat).map (fun k => s.reg .B + BitVec.ofNat 16 k)
  | _ =>
    match destOf i with
    | .none => []
    | .b b => (locB b (readA i.operandA s).2).1.target
    | .a a => (locA a s).1.target

/-- The second operand of a basic instruction. -/
def operandB : Instr → Option OpB
  | .set b _ | .add b _ | .sub b _ | .mul b _ | .mli b _ | .div b _ | .dvi b _ | .mod b _ | .mdi b _
  | .and b _ | .bor b _ | .xor b _ | .shr b _ | .asr b _ | .shl b _ | .adc b _ | .sbb b _
  | .fxmul b _ | .fxdiv b _ | .ldb b _
  | .ifb b _ | .ifc b _ | .ife b _ | .ifn b _ | .ifg b _ | .ifa b _ | .ifl b _ | .ifu b _
  | .cmp b _ | .tst b _ | .reserved1F b _ => some b
  | .nop _ | .jsr _ | .bsr _ | .jz _ | .jnz _ | .jc _ | .jnc _ | .js _ | .jns _ | .jo _ | .ja _ | .jbe _
  | .jge _ | .jl _ | .jg _ | .jle _ | .int _ | .iag _ | .ias _ | .rfi _ | .iaq _
  | .reserved15 _ | .reserved16 _ | .reserved17 _ | .neg _ | .not _ | .sxb _ | .swp _
  | .bcopy _ | .brk _ | .hlt _ | .stb _ => none

/-- The next word of a basic instruction's second operand, if it has one (30_encoding.md R84). -/
def nextB (i : Instr) : List Word :=
  match operandB i with
  | some b => b.next
  | none => []

/-- The instructions that may move SP: one with a POP or a PUSH operand, one whose destination is SP, and those that use
the stack by themselves. -/
def touchesSp (i : Instr) : Prop :=
  i.operandA = .pop ∨ operandB i = some .push ∨
  (∃ b, destOf i = .b b ∧ b = .sp) ∨ (∃ a, destOf i = .a a ∧ a = .sp) ∨
  (∃ a, i = .jsr a ∨ i = .bsr a ∨ i = .int a ∨ i = .rfi a)

/-- The instructions that may write EX: those that do as a side effect (10_state.md R17), and one whose destination is
EX. -/
def touchesEx (i : Instr) : Prop :=
  (∃ b, destOf i = .b b ∧ b = .ex) ∨ (∃ a, destOf i = .a a ∧ a = .ex) ∨
  (∃ b a, i = .add b a ∨ i = .sub b a ∨ i = .mul b a ∨ i = .mli b a ∨ i = .div b a ∨ i = .dvi b a ∨
    i = .mod b a ∨ i = .mdi b a ∨ i = .shr b a ∨ i = .asr b a ∨ i = .shl b a ∨ i = .adc b a ∨ i = .sbb b a ∨
    i = .fxmul b a ∨ i = .fxdiv b a)

/-- Whether FL is the explicit destination. -/
def writesFl (i : Instr) : Prop := (∃ b, destOf i = .b b ∧ b = .fl) ∨ (∃ a, destOf i = .a a ∧ a = .fl)

/-- The instructions that always update FL, all four flags (10_state.md R20, R22 to R26). -/
def updatesAllFlags (i : Instr) : Prop :=
  (∃ b a, i = .add b a ∨ i = .sub b a ∨ i = .mul b a ∨ i = .mli b a ∨ i = .div b a ∨ i = .dvi b a ∨ i = .mod b a ∨
    i = .mdi b a ∨ i = .and b a ∨ i = .bor b a ∨ i = .xor b a ∨ i = .shr b a ∨ i = .asr b a ∨ i = .shl b a ∨
    i = .adc b a ∨ i = .sbb b a ∨ i = .cmp b a ∨ i = .tst b a ∨ i = .fxmul b a ∨ i = .fxdiv b a) ∨
  (∃ a, i = .neg a ∨ i = .not a)

/-- The instructions that update Z and S and leave C and O (10_state.md R27). -/
def updatesZeroSign (i : Instr) : Prop := (∃ b a, i = .ldb b a) ∨ (∃ a, i = .sxb a)

end Sys2Proof.Machine
end

