-- ==== Sys2Proof/Certificates/Slice0/Obligations.lean ====
section
/-! DEFINITION. The statements for the provers, one `Prop` each. A meaning runs with PC past the instruction's first word
(`StepRunsDecoded`). `evaluate`, `Writes`, `storesTo` and the other words of the statements stand in Sys2Proof/Safety.lean.
A clause that rests on a decision of the spec or on a choice of the model names the decision and its log entry. -/

section

open Sys2Proof Sys2Proof.Machine

/-- Decoding the words of a well-formed instruction, whatever follows them, gives the instruction back (R80, R84, R87,
R88, R100). -/
def Obligations.DecodeInvertsEncode : Prop :=
  ∀ (i : Instr) (rest : List Word), i.wf = true → decode (encode i ++ rest) = .ok (i, rest)

/-- The instruction read from any words is well formed, and its encoding with the words left over is those words. -/
def Obligations.EncodeInvertsDecode : Prop :=
  ∀ (ws : List Word) (i : Instr) (rest : List Word), decode ws = .ok (i, rest) → i.wf = true ∧ encode i ++ rest = ws

/-- Every first word decodes; how many words it takes is read from it alone (R86, with the decision D3 for ignored
operands). -/
def Obligations.FirstWordDecidesLength : Prop :=
  ∀ (w : Word) (ws : List Word),
    let na : Nat := if (0x10 ≤ (fieldA w).toNat ∧ (fieldA w).toNat ≤ 0x17) ∨ (fieldA w).toNat = 0x1A ∨
      (fieldA w).toNat = 0x1E ∨ (fieldA w).toNat = 0x1F then 1 else 0
    let nb : Nat := if (fieldO w).toNat ≠ 0 ∧ ((0x10 ≤ (fieldB w).toNat ∧ (fieldB w).toNat ≤ 0x17) ∨
      (fieldB w).toNat = 0x1A ∨ (fieldB w).toNat = 0x1E) then 1 else 0
    lengthOf w = 1 + na + nb ∧
    (na + nb ≤ ws.length → ∃ i, decode (w :: ws) = .ok (i, ws.drop (na + nb))) ∧
    (ws.length < na + nb → ∃ e, decode (w :: ws) = .error e)

/-- A few of the source's own encodings, read as the instructions it prints them for. -/
def Obligations.PrintedWordsDecode : Prop :=
  decode [0xB001#16] = .ok (.set (.reg .A) (.inl 10#16), []) ∧
  decode [0x5262#16, 0x0003#16, 0x0005#16] = .ok (.add (.idx .X 5#16) (.idx .Y 3#16), []) ∧
  decode [0x7C20#16, 0x0200#16] = .ok (.jsr (.lit 0x0200#16), []) ∧
  decode [0x881A#16] = .ok (.cmp (.reg .A) (.inl 0#16), []) ∧
  decode [0x0FE0#16] = .ok (.stb (.reg .X), []) ∧
  decode [0x0380#16] = .ok (.bcopy (.reg .A), []) ∧
  decode [0x6381#16] = .ok (.set .pc .pop, []) ∧
  decode [0x0000#16] = .ok (.nop (.reg .A), [])

/-- A step runs the instruction whose words stand at PC in plain RAM: `exec` from the state with PC past the first word,
then `endOfInstruction` (R94).

The second part holds wherever the words stand, and says when each is read (R7, R91): `u` is the state after the
first word and `a`'s next word, and `b`'s next word is what a read at PC gives once `a` is evaluated (`OperandForms`
has that read). For words in device registers it is the model's choice to run them, where the source calls the
results unpredictable and R74 advises to refuse the fetch (decision D32, U3): log entry 9. That `i` holds the value
of `b`'s next word before the meaning reads it is the look-ahead of log entry 10, the model's choice too. -/
def Obligations.StepRunsDecoded : Prop :=
  (∀ (s : State) (w : Word) (i : Instr), s.hostStop = .running → s.halted = false →
    (∀ k, k < lengthOf w → plainRam (s.pc + BitVec.ofNat 16 k) .read s) →
    w = s.mem.readWord s.pc.toNat →
    decode ((List.range (lengthOf w)).map (fun k => s.mem.readWord (s.pc + BitVec.ofNat 16 k).toNat)) = .ok (i, []) →
    step s =
      match exec i (s.setPc (s.pc + 1#16)) with
      | .next t => .next (endOfInstruction t)
      | .fault f => .fault f
      | .refused r => .refused r) ∧
  (∀ (s : State) (i : Instr), s.hostStop = .running → s.halted = false → i.wf = true →
    let w := memRead s.pc s
    let na := if i.operandA.next = [] then w else memRead (s.pc + 1#16) w.2
    let u := na.2.setPc (s.pc + 1#16)
    let v := (readA i.operandA u).2
    (encode i).head? = some w.1 → (∀ x ∈ i.operandA.next, x = na.1) → (∀ x ∈ nextB i, x = (memRead v.pc v).1) →
    step s =
      match exec i u with
      | .next t => .next (endOfInstruction t)
      | .fault f => .fault f
      | .refused r => .refused r)

/-- A blocked fetch reads 0x0000, which is NOP: PC moves on by one, and in fault mode the violation is noted (R50, R64,
R275). That in fault mode the access is suppressed, noted and the instruction goes on is decision D18, log entry 12. -/
def Obligations.BlockedFetchIsNop : Prop :=
  ∀ (s : State), s.hostStop = .running → s.halted = false → mpuViolation s.pc .read s = true →
    step s = .next (endOfInstruction
      (((if s.mpuCtrl.getLsbD 1 then s.setMpuf true else s).setPc (s.pc + 1#16)).charge 1))

/-- Halted with IA = 0, nothing but a reset can end the halt (R274: halts permanently until external reset). -/
def Obligations.HaltWithoutHandlerIsForGood : Prop :=
  ∀ (n : Nat) (s : State), s.halted = true → s.ia = 0x0000#16 →
    ∃ t : State, Host.Core.run Sys2Proof.core n s = .next t ∧ t.halted = true ∧ t.ia = 0x0000#16 ∧
      t.regs = s.regs ∧ t.pc = s.pc ∧ t.sp = s.sp ∧ t.ex = s.ex ∧ t.fl = s.fl ∧ t.iq = s.iq ∧
      t.sysIqm = s.sysIqm ∧ t.mpuBase = s.mpuBase ∧ t.mpuLimit = s.mpuLimit ∧ t.mpuCtrl = s.mpuCtrl ∧ t.mem = s.mem

/-- What `Reset()` and the ROM copy leave, for every installation; a ROM word that has no RAM to go to is dropped
(decision D27, log entry 21). SYS_TICKS is not covered: its reset value is the model's choice (log entry 4). -/
def Obligations.BootGivesResetValues : Prop :=
  boot Config.initial = State.reset ∧
  ∀ (cfg : Config), (∀ r, (boot cfg).reg r = 0x0000#16) ∧ (boot cfg).pc = 0x0000#16 ∧ (boot cfg).sp = 0x0000#16 ∧
    (boot cfg).ex = 0x0000#16 ∧ (boot cfg).fl.toWord = 0x0000#16 ∧ (boot cfg).ia = 0x0000#16 ∧
    (boot cfg).iq = false ∧ (boot cfg).queue = [] ∧ (boot cfg).halted = false ∧ (boot cfg).mpuf = false ∧
    (boot cfg).sysIqm = 0x0000#16 ∧ (boot cfg).mpuCtrl = 0x0000#16 ∧
    (boot cfg).mpuBase = cfg.mpuBaseReset ∧ (boot cfg).mpuLimit = cfg.mpuLimitReset ∧ (boot cfg).cfg = cfg ∧
    ∀ w : Nat, (boot cfg).mem.readWord w = if w < cfg.ram.words then cfg.rom.getD w 0x0000#16 else 0x0000#16

/-- The invariant holds after every boot, and so at `State.reset`; no boot leaves the CPU halted. -/
def Obligations.BootMeetsInvariant : Prop :=
  (∀ cfg : Config, Inv (boot cfg) ∧ (boot cfg).halted = false) ∧ Inv State.reset

/-- Any step, whatever the instruction, the interrupts and the environment do, keeps the invariant `Inv`. -/
def Obligations.StepKeepsInvariant : Prop :=
  ∀ (s t : State), Inv s → step s = .next t → Inv t

/-- Read after write, and the big-endian byte order (R44, R70). -/
def Obligations.StoreIsReadBack : Prop :=
  ∀ (s : State) (addr x v : Word), plainRam addr .write s → plainRam x .read s →
    (memRead x (memWrite addr v s)).1 = (if x = addr then v else (memRead x s).1) ∧
    ((memWrite addr v s).mem.readByte (2 * addr.toNat)).toNat = v.toNat / 256 ∧
    ((memWrite addr v s).mem.readByte (2 * addr.toNat + 1)).toNat = v.toNat % 256

/-- The predicate of R62, as one equivalence. -/
def Obligations.MpuViolationPredicate : Prop :=
  ∀ (addr : Word) (k : Access) (s : State),
    mpuViolation addr k s = true ↔
      s.mpuCtrl.getLsbD 0 = true ∧ addr.toNat < 0xE000 ∧
      ¬(s.mpuBase.toNat ≤ addr.toNat ∧ addr.toNat < s.mpuLimit.toNat) ∧
      ¬(s.mpuCtrl.getLsbD 2 = true ∧ k = .read)

/-- The four cases of a read below 0xE000 (R43, R50, R63, R66). In fault mode the access is suppressed and noted, and the
instruction goes on: decision D18, log entry 12. -/
def Obligations.ReadBelowMmio : Prop :=
  ∀ (addr : Word) (s : State), addr.toNat < 0xE000 →
    (mpuViolation addr .read s = false → addr.toNat < s.cfg.ram.words → memRead addr s = (s.mem.readWord addr.toNat, s)) ∧
    (mpuViolation addr .read s = false → s.cfg.ram.words ≤ addr.toNat → memRead addr s = (0x0000#16, s)) ∧
    (mpuViolation addr .read s = true → s.mpuCtrl.getLsbD 1 = false → memRead addr s = (0x0000#16, s)) ∧
    (mpuViolation addr .read s = true → s.mpuCtrl.getLsbD 1 = true → memRead addr s = (0x0000#16, s.setMpuf true))

/-- The four cases of a write below 0xE000 (R43, R51, R63, R66). In fault mode the access is suppressed and noted, and
the instruction goes on: decision D18, log entry 12. -/
def Obligations.WriteBelowMmio : Prop :=
  ∀ (addr v : Word) (s : State), addr.toNat < 0xE000 →
    (mpuViolation addr .write s = false → addr.toNat < s.cfg.ram.words →
      memWrite addr v s = s.setMem (s.mem.writeWord addr.toNat v)) ∧
    (mpuViolation addr .write s = false → s.cfg.ram.words ≤ addr.toNat → memWrite addr v s = s) ∧
    (mpuViolation addr .write s = true → s.mpuCtrl.getLsbD 1 = false → memWrite addr v s = s) ∧
    (mpuViolation addr .write s = true → s.mpuCtrl.getLsbD 1 = true → memWrite addr v s = s.setMpuf true)

/-- Reads of slot 0 (R332). Reserved words reading 0x0000 is decision D22; SYS_RNG as a draw is decision D33; the form of
the SYS_TICKS draw is log entry 4, the form of any draw (`supply`, then `Config.freeDraw`, `drawn`) log entry 5. -/
def Obligations.ControlBlockReads : Prop :=
  ∀ (s : State), memRead 0xE000#16 s = (0x4802#16, s) ∧ memRead 0xE001#16 s = (s.cfg.sysVer, s) ∧
    (memRead 0xE002#16 s).2 = s ∧ (memRead 0xE002#16 s).1.toNat = s.cfg.ram.words ∧
    (memRead 0xE003#16 s).2 = s ∧ (memRead 0xE003#16 s).1.toNat = s.cfg.cycleBudget % 65536 ∧
    (memRead 0xE004#16 s).1 = s.sysTicks + (draw s).1 ∧
    (memRead 0xE004#16 s).2 = (draw s).2.setSysTicks (s.sysTicks + (draw s).1) ∧
    memRead 0xE005#16 s = (s.sysIqm, s) ∧ memRead 0xE006#16 s = (s.mpuBase, s) ∧
    memRead 0xE007#16 s = (s.mpuLimit, s) ∧ memRead 0xE008#16 s = (s.mpuCtrl, s) ∧
    memRead 0xE009#16 s = draw s ∧
    (memRead 0xE00A#16 s).2 = s ∧ (memRead 0xE00A#16 s).1.toNat = s.cfg.hwCount % 65536 ∧
    (∀ addr : Word, 0xE00B ≤ addr.toNat → addr.toNat ≤ 0xE0FF → memRead addr s = (0x0000#16, s)) ∧
    (∀ v rest, s.supply = v :: rest → draw s = (v, s.setSupply rest)) ∧
    (s.supply = [] → draw s = (Config.freeDraw s.drawn, s.setDrawn (s.drawn + 1)))

/-- Writes to slot 0 (R333); discarding those at reserved words is decision D22. -/
def Obligations.ControlBlockWrites : Prop :=
  ∀ (s : State) (addr v : Word), 0xE000 ≤ addr.toNat → addr.toNat ≤ 0xE0FF →
    memWrite addr v s =
      if addr = 0xE005#16 then s.setSysIqm v
      else if addr = 0xE006#16 then s.setMpuBase v
      else if addr = 0xE007#16 then s.setMpuLimit v
      else if addr = 0xE008#16 then s.setMpuCtrl v
      else s

/-- Slots 1 to 31: slot and offset by R46, the header by R334, other registers as draws (log entries 5, 7 and 8 for
draws, for the header as a constant and for `bus`); the standard table is R335's. -/
def Obligations.DeviceSlotAccess : Prop :=
  (∀ (s : State) (addr : Word), 0xE100 ≤ addr.toNat →
    let slot := addr.toNat / 256 - 0xE0
    let off := addr.toNat % 256
    (∀ v, memWrite addr v s = s.emit (.devWrite slot off v)) ∧
    (s.cfg.devices.lookup slot = none → memRead addr s = (0x0000#16, s.emit (.devRead slot off))) ∧
    (∀ d, s.cfg.devices.lookup slot = some d → d.devId ≠ 0x0000#16 ∧
      (off = 0 → memRead addr s = (d.devId, s.emit (.devRead slot off))) ∧
      (off = 1 → memRead addr s = (d.devIdHi, s.emit (.devRead slot off))) ∧
      (off = 2 → memRead addr s = (d.devVer, s.emit (.devRead slot off))) ∧
      (3 ≤ off → memRead addr s = draw (s.emit (.devRead slot off))))) ∧
  (∀ (s : State) (k : StandardDevice) (ver : Word), s.cfg.devices.lookup k.slot = some (k.device ver) →
    memRead (slotBase k.slot) s = (k.devId, s.emit (.devRead k.slot 0)) ∧
    memRead (slotBase k.slot + 1#16) s = (k.devIdHi, s.emit (.devRead k.slot 1)))

/-- The MPU confines every store of every instruction but BCOPY, which may reprogram the MPU between two of its words
(R62 to R66). That the access is suppressed in fault mode too is decision D18, that the pushes of JSR, BSR and of
INT's dispatch are checked is decision D19: log entry 12. -/
def Obligations.MpuConfinesStores : Prop :=
  ∀ (i : Instr) (s t : State) (w : Nat), (∀ a, i ≠ .bcopy a) → s.mpuCtrl.getLsbD 0 = true → w < 0xE000 →
    ¬(s.mpuBase.toNat ≤ w ∧ w < s.mpuLimit.toNat) → exec i s = .next t → t.mem.readWord w = s.mem.readWord w

/-- `Dispatch(M)` (R308; its MPU clause is decisions D18 and D19, log entry 12). -/
def Obligations.DispatchTakesInterrupt : Prop :=
  ∀ (m : Word) (s : State), (dispatch m s).iq = true ∧ (dispatch m s).pc = s.ia ∧ (dispatch m s).sp = s.sp - 2#16 ∧
    (dispatch m s).reg .A = m ∧ RegsKept [.A] s (dispatch m s) ∧ (dispatch m s).halted = false ∧
    (dispatch m s).ex = s.ex ∧ (dispatch m s).fl = s.fl ∧ (dispatch m s).ia = s.ia ∧ (dispatch m s).cfg = s.cfg ∧
    (dispatch m s).arrivals = s.arrivals ∧ (dispatch m s).hostStop = s.hostStop ∧
    MemoryKept [s.sp - 1#16, s.sp - 2#16] s (dispatch m s) ∧
    ControlKept [s.sp - 1#16, s.sp - 2#16] s (dispatch m s) ∧
    (dispatch m s).mpuf = false ∧
    (plainRam (s.sp - 1#16) .write s → (dispatch m s).mem.readWord (s.sp - 1#16).toNat = s.pc) ∧
    (plainRam (s.sp - 2#16) .write s → (dispatch m s).mem.readWord (s.sp - 2#16).toNat = s.reg .A) ∧
    (dispatch m s).queue =
      (if (s.mpuf = true ∨ (s.mpuCtrl.getLsbD 1 = true ∧
          (mpuViolation (s.sp - 1#16) .write s = true ∨ mpuViolation (s.sp - 2#16) .write s = true))) ∧
          s.queue.length < 256
        then s.queue ++ [0xFFFE#16] else s.queue)

/-- The frame's layout (R309), and RFI after dispatch (R253, R310). -/
def Obligations.ReturnRestoresFrame : Prop :=
  ∀ (m : Word) (s : State), plainRam (s.sp - 1#16) .write s → plainRam (s.sp - 2#16) .write s →
    plainRam (s.sp - 1#16) .read s → plainRam (s.sp - 2#16) .read s →
    let h := dispatch m s
    let r := returnFromInterrupt h
    h.mem.readWord h.sp.toNat = s.reg .A ∧ h.mem.readWord (h.sp + 1#16).toNat = s.pc ∧
    r.regs = s.regs ∧ r.pc = s.pc ∧ r.sp = s.sp ∧ r.iq = false ∧ r.ex = s.ex ∧ r.fl = s.fl ∧ r.ia = s.ia ∧
    MemoryKept [s.sp - 1#16, s.sp - 2#16] s r

/-- `Arrive(M)`: discarded, enqueued or dispatched, IA tested first (R306). -/
def Obligations.ArrivalByState : Prop :=
  ∀ (m : Word) (s : State), (s.ia = 0x0000#16 → arrive m s = s) ∧
    (s.ia ≠ 0x0000#16 → s.iq = true → arrive m s = enqueue m s) ∧
    (s.ia ≠ 0x0000#16 → s.iq = false → arrive m s = dispatch m s)

/-- `Enqueue(M)` (R312); modes above 2 act as 0 by decision D22, the wake-up is decision D17 (log entries 16 and 18). -/
def Obligations.QueuePolicy : Prop :=
  ∀ (m : Word) (s : State),
    (s.cfg.hltWakeOnQueued = false →
      (s.queue.length < 256 → enqueue m s = s.setQueue (s.queue ++ [m])) ∧
      (256 ≤ s.queue.length → s.sysIqm = 0x0001#16 → enqueue m s = s.setQueue (s.queue.tail ++ [m])) ∧
      (256 ≤ s.queue.length → s.sysIqm = 0x0002#16 → enqueue m s = overflowFault s) ∧
      (256 ≤ s.queue.length → s.sysIqm ≠ 0x0001#16 → s.sysIqm ≠ 0x0002#16 → enqueue m s = s)) ∧
    (s.cfg.hltWakeOnQueued = true →
      (s.queue.length < 256 → enqueue m s = (s.setQueue (s.queue ++ [m])).setHalted false) ∧
      (256 ≤ s.queue.length → s.sysIqm = 0x0001#16 →
        enqueue m s = (s.setQueue (s.queue.tail ++ [m])).setHalted false) ∧
      (256 ≤ s.queue.length → s.sysIqm = 0x0002#16 → enqueue m s = overflowFault s) ∧
      (256 ≤ s.queue.length → s.sysIqm ≠ 0x0001#16 → s.sysIqm ≠ 0x0002#16 → enqueue m s = s.setHalted false))

/-- `QueueOverflowFault` (R313; that IQ stays and a violating push is dropped are decisions D16 and D18, log entries 12
and 19). -/
def Obligations.OverflowFaultEntry : Prop :=
  ∀ (s : State), (overflowFault s).pc = s.ia ∧ (overflowFault s).sp = s.sp - 2#16 ∧
    (overflowFault s).reg .A = 0xFFFF#16 ∧ RegsKept [.A] s (overflowFault s) ∧ (overflowFault s).halted = false ∧
    (overflowFault s).iq = s.iq ∧ (overflowFault s).queue = s.queue ∧ (overflowFault s).ex = s.ex ∧
    (overflowFault s).fl = s.fl ∧ (overflowFault s).ia = s.ia ∧ (overflowFault s).mpuf = false ∧
    MemoryKept [s.sp - 1#16, s.sp - 2#16] s (overflowFault s) ∧
    ControlKept [s.sp - 1#16, s.sp - 2#16] s (overflowFault s) ∧
    (plainRam (s.sp - 1#16) .write s → (overflowFault s).mem.readWord (s.sp - 1#16).toNat = s.pc) ∧
    (plainRam (s.sp - 2#16) .write s → (overflowFault s).mem.readWord (s.sp - 2#16).toNat = s.reg .A)

/-- `Boundary()`: the oldest queued message is taken, and arrivals never overtake it (R305; the order is decision D14,
the message discarded with IA = 0 decision D15: log entry 26). `EndOfInstruction()`: the noted violation first (R66,
R305; one 0xFFFE for each instruction is decision D18, log entry 12). -/
def Obligations.BoundaryKeepsOrder : Prop :=
  (∀ (s : State) (m : Word) (rest : List Word) (ms : List Word) (later : List (List Word)),
    s.iq = false → s.ia ≠ 0x0000#16 → s.queue = m :: rest → s.arrivals = ms :: later →
    rest.length + ms.length ≤ 256 → s.mpuf = false →
    mpuViolation (s.sp - 1#16) .write s = false → mpuViolation (s.sp - 2#16) .write s = false →
    boundary s = ((dispatch m (s.setQueue rest)).setQueue (rest ++ ms)).setArrivals later) ∧
  (∀ s : State, s.iq = true ∨ s.queue = [] →
    (s.arrivals = [] → boundary s = s) ∧
    (∀ ms later, s.arrivals = ms :: later →
      boundary s = ms.foldl (fun t m => arrive m t) (s.setArrivals later))) ∧
  (∀ (s : State) (m : Word) (rest : List Word), s.ia = 0x0000#16 → s.iq = false → s.queue = m :: rest →
    boundary s = (s.setQueue rest).setArrivals s.arrivals.tail) ∧
  (∀ s : State, (endOfInstruction s).mpuf = false ∧
    (s.mpuf = false → endOfInstruction s = boundary s) ∧
    (s.mpuf = true →
      (s.ia = 0x0000#16 → endOfInstruction s = boundary (s.setMpuf false)) ∧
      (s.ia ≠ 0x0000#16 → s.iq = false → endOfInstruction s = boundary (dispatch 0xFFFE#16 (s.setMpuf false))) ∧
      (s.ia ≠ 0x0000#16 → s.iq = true → endOfInstruction s = boundary (enqueue 0xFFFE#16 (s.setMpuf false)))))

/-- Halted steps (R318; the wake-up parameter is decision D17, log entry 18). -/
def Obligations.HaltedStepByState : Prop :=
  ∀ (s : State) (m : Word) (later : List (List Word)), s.hostStop = .running → s.halted = true →
    (s.queue = [] → s.arrivals = [] → step s = .next s) ∧
    (s.queue = [] → s.arrivals = [] :: later → step s = .next (s.setArrivals later)) ∧
    (s.queue = [] → s.ia ≠ 0x0000#16 → s.iq = false → s.arrivals = [m] :: later →
      step s = .next (dispatch m (s.setArrivals later))) ∧
    (s.queue = [] → s.ia ≠ 0x0000#16 → s.iq = true → s.arrivals = [m] :: later →
      step s = .next (((s.setArrivals later).setQueue [m]).setHalted (!s.cfg.hltWakeOnQueued))) ∧
    (∀ rest, s.queue = m :: rest → s.ia ≠ 0x0000#16 → s.iq = false → s.arrivals = [] →
      step s = .next (dispatch m (s.setQueue rest)))

/-- The memory frame of all 63 instructions: only the words of `storesTo`, computed with the meaning's own address
expressions, can change. -/
def Obligations.StoresOnlyWhereNamed : Prop :=
  ∀ (i : Instr) (s t : State), exec i s = .next t → MemoryKept (storesTo i s) s t ∧ ControlKept (storesTo i s) s t

/-- The register frame of all 63 instructions. Which instructions write EX is R17's list; that NEG is not among them is
decision D30, that MOD and MDI are for a zero divisor only the resolution C3: log entry 29. -/
def Obligations.RegistersOnlyAsNamed : Prop :=
  ∀ (i : Instr) (s t : State), exec i s = .next t →
    RegsKept (writesRegs i) s t ∧ (¬touchesSp i → t.sp = s.sp) ∧ (¬touchesEx i → t.ex = s.ex)

/-- The flag frame of all 63 instructions (R20, R27). -/
def Obligations.FlagsOnlyAsNamed : Prop :=
  ∀ (i : Instr) (s t : State), exec i s = .next t → ¬writesFl i →
    (¬updatesAllFlags i → ¬updatesZeroSign i → t.fl = s.fl) ∧
    (updatesZeroSign i → t.fl.c = s.fl.c ∧ t.fl.o = s.fl.o)

/-- Whole-machine rules over all 63 instructions: which of them may touch the interrupt state, the halt and the host's
stop. That INT's dispatch and overflow fault forget a noted violation is decisions D18 and D16, log entries 12 and
19. The SYS_TICKS clause is about the model's own draw fields (log entries 4 and 5). -/
def Obligations.SystemStateOnlyAsNamed : Prop :=
  ∀ (i : Instr) (s t : State), exec i s = .next t →
    ((∀ a, i ≠ .ias a) → t.ia = s.ia) ∧
    ((∀ a, i ≠ .int a ∧ i ≠ .rfi a ∧ i ≠ .iaq a) → t.iq = s.iq) ∧
    ((∀ a, i ≠ .int a) → t.queue = s.queue) ∧
    ((∀ a, i ≠ .int a ∧ i ≠ .hlt a) → t.halted = s.halted) ∧
    ((∀ a, i ≠ .brk a) → t.hostStop = s.hostStop) ∧
    t.cfg = s.cfg ∧ t.arrivals = s.arrivals ∧
    ((∀ a, i ≠ .int a) → s.mpuf = true → t.mpuf = true) ∧
    (t.supply.length = s.supply.length → t.drawn = s.drawn → t.sysTicks = s.sysTicks)

/-- The operand tables, form by form (R87 to R92). That address sums wrap is decision D1, the value of PC as an operand
decision D2: log entry 27. `b`'s next word is read when `b` is resolved (R7, R91); `a`'s has been read before the
meaning begins (`StepRunsDecoded`). -/
def Obligations.OperandForms : Prop :=
  ∀ (s : State) (r : Reg) (nw : Word),
    readA (.reg r) s = (s.reg r, s) ∧
    readA (.ind r) s = memRead (s.reg r) s ∧
    readA (.idx r nw) s = memRead (s.reg r + nw) (s.setPc (s.pc + 1#16)) ∧
    readA .pop s = memRead s.sp (s.setSp (s.sp + 1#16)) ∧
    readA .peek s = memRead s.sp s ∧
    readA (.pick nw) s = memRead (s.sp + nw) (s.setPc (s.pc + 1#16)) ∧
    readA .sp s = (s.sp, s) ∧ readA .pc s = (s.pc, s) ∧ readA .ex s = (s.ex, s) ∧ readA .fl s = (s.fl.toWord, s) ∧
    readA (.dir nw) s = memRead nw (s.setPc (s.pc + 1#16)) ∧
    readA (.lit nw) s = (nw, s.setPc (s.pc + 1#16)) ∧ readA (.inl nw) s = (nw, s) ∧
    locB (.reg r) s = (.reg r, s) ∧
    locB (.ind r) s = (.mem (s.reg r), s) ∧
    locB (.idx r nw) s = (.mem (s.reg r + nw), (memRead s.pc s).2.setPc (s.pc + 1#16)) ∧
    locB .push s = (.memPush (s.sp - 1#16), s.setSp (s.sp - 1#16)) ∧
    locB .peek s = (.mem s.sp, s) ∧
    locB (.pick nw) s = (.mem (s.sp + nw), (memRead s.pc s).2.setPc (s.pc + 1#16)) ∧
    locB .sp s = (.sp, s) ∧ locB .pc s = (.pc, s) ∧ locB .ex s = (.ex, s) ∧ locB .fl s = (.fl, s) ∧
    locB (.dir nw) s = (.mem nw, (memRead s.pc s).2.setPc (s.pc + 1#16))

/-- Writing a location (R89, R19), then reading it. What the write access does at each kind of address is
`WriteBelowMmio`, `ControlBlockWrites` and `DeviceSlotAccess`. -/
def Obligations.DestinationHoldsResult : Prop :=
  ∀ (s : State) (v : Word),
    (∀ r, storeLoc (.reg r) v s = s.setReg r v ∧ (storeLoc (.reg r) v s).reg r = v ∧
      RegsKept [r] s (storeLoc (.reg r) v s) ∧
      storeLoc (.reg r) v s = { s with regs := (storeLoc (.reg r) v s).regs }) ∧
    storeLoc .sp v s = { s with sp := v } ∧ storeLoc .pc v s = { s with pc := v } ∧
    storeLoc .ex v s = { s with ex := v } ∧ storeLoc .fl v s = { s with fl := Flags.ofWord v } ∧
    (storeLoc .fl v s).fl.toWord.toNat = v.toNat % 16 ∧
    (∀ w, storeLoc (.lit w) v s = s) ∧
    (∀ addr, storeLoc (.mem addr) v s = memWrite addr v s ∧ storeLoc (.memPush addr) v s = memWrite addr v s) ∧
    (∀ addr, plainRam addr .write s → plainRam addr .read s →
      (loadLoc (.mem addr) (storeLoc (.mem addr) v s)).1 = v ∧
      (loadLoc (.mem addr) (storeLoc (.memPush addr) v s)).1 = v)

/-- The two uses the source calls undefined (R89) are faults, by decision D25 (log entry 11). -/
def Obligations.UndefinedOperandUsesFault : Prop :=
  ∀ (a : OpA) (s : State),
    (∀ i ∈ [Instr.add .push a, .sub .push a, .mul .push a, .mli .push a, .div .push a, .dvi .push a, .mod .push a,
        .mdi .push a, .and .push a, .bor .push a, .xor .push a, .shr .push a, .asr .push a, .shl .push a,
        .adc .push a, .sbb .push a, .fxmul .push a, .fxdiv .push a, .cmp .push a, .tst .push a, .ifb .push a,
        .ifc .push a, .ife .push a, .ifn .push a, .ifg .push a, .ifa .push a, .ifl .push a, .ifu .push a],
      exec i s = .fault .readOfPush) ∧
    (∀ i ∈ [Instr.iag .pop, .neg .pop, .not .pop, .sxb .pop, .swp .pop], exec i s = .fault .writeToPop)

/-- SET b, a (R130), for every form: the destination is written and not read. -/
def Obligations.SetStoresSource : Prop :=
  ∀ (b : OpB) (a : OpA) (s : State),
    exec (.set b a) s = .next (storeLoc (locB b (readA a s).2).1 (readA a s).1
      ((locB b (readA a s).2).2.charge (1 + costA a + costB b)))

/-- ADD and SUB by exact integer arithmetic (R131, R132). An EX or FL destination is written last: decision D7, log entry
15. -/
def Obligations.AddSubResults : Prop :=
  ∀ (b : OpB) (a : OpA) (s : State), b ≠ .push →
    let vb := (evaluate b a s).vb
    let va := (evaluate b a s).va
    Writes (.add b a) b a 2 (some (if 65535 < vb.toNat + va.toNat then 0x0001#16 else 0x0000#16))
      (flagsFor (BitVec.ofNat 16 (vb.toNat + va.toNat)) (65535 < vb.toNat + va.toNat)
        (vb.toInt + va.toInt < -32768 ∨ 32767 < vb.toInt + va.toInt))
      (BitVec.ofNat 16 (vb.toNat + va.toNat)) s ∧
    Writes (.sub b a) b a 2 (some (if vb.toNat < va.toNat then 0xFFFF#16 else 0x0000#16))
      (flagsFor (BitVec.ofNat 16 (vb.toNat + 65536 - va.toNat)) (vb.toNat < va.toNat)
        (vb.toInt - va.toInt < -32768 ∨ 32767 < vb.toInt - va.toInt))
      (BitVec.ofNat 16 (vb.toNat + 65536 - va.toNat)) s

/-- ADC and SBB (R190, R191; the EX values are decision D10, log entry 29). An EX or FL destination is written last:
decision D7, log entry 15. -/
def Obligations.AdcSbbResults : Prop :=
  ∀ (b : OpB) (a : OpA) (s : State), b ≠ .push →
    let vb := (evaluate b a s).vb
    let va := (evaluate b a s).va
    let k := s.fl.c.toNat
    Writes (.adc b a) b a 2 (some (if 65535 < vb.toNat + va.toNat + k then 0x0001#16 else 0x0000#16))
      (flagsFor (BitVec.ofNat 16 (vb.toNat + va.toNat + k)) (65535 < vb.toNat + va.toNat + k)
        (vb.toInt + va.toInt + (k : Int) < -32768 ∨ 32767 < vb.toInt + va.toInt + (k : Int)))
      (BitVec.ofNat 16 (vb.toNat + va.toNat + k)) s ∧
    Writes (.sbb b a) b a 2 (some (if vb.toNat < va.toNat + k then 0xFFFF#16 else 0x0000#16))
      (flagsFor (BitVec.ofNat 16 (vb.toNat + 131072 - va.toNat - k)) (vb.toNat < va.toNat + k)
        (vb.toInt - va.toInt - (k : Int) < -32768 ∨ 32767 < vb.toInt - va.toInt - (k : Int)))
      (BitVec.ofNat 16 (vb.toNat + 131072 - va.toNat - k)) s

/-- CMP (R192, the flags of SUB by R22) and TST (R193, the flags of AND by R25): flags only. -/
def Obligations.CompareTestFlags : Prop :=
  ∀ (b : OpB) (a : OpA) (s : State), b ≠ .push →
    let vb := (evaluate b a s).vb
    let va := (evaluate b a s).va
    exec (.cmp b a) s = .next (((evaluate b a s).after.charge (2 + costA a + costB b)).setFl
      ⟨decide (vb = va), decide (vb.toNat < va.toNat),
       decide (32768 ≤ (vb.toNat + 65536 - va.toNat) % 65536),
       decide (vb.toInt - va.toInt < -32768 ∨ 32767 < vb.toInt - va.toInt)⟩) ∧
    exec (.tst b a) s = .next (((evaluate b a s).after.charge (1 + costA a + costB b)).setFl
      (flagsFor (vb &&& va) False False))

/-- MUL (R133; O = 0 is decision D8, log entry 29). An EX or FL destination is written last: decision D7, log entry 15. -/
def Obligations.MulResult : Prop :=
  ∀ (b : OpB) (a : OpA) (s : State), b ≠ .push →
    ∃ r e : Word, e.toNat * 65536 + r.toNat = (evaluate b a s).vb.toNat * (evaluate b a s).va.toNat ∧
      Writes (.mul b a) b a 3 (some e) (flagsFor r (e.toNat ≠ 0) False) r s

/-- MLI (R134; O is decision D9, and C from EX the resolution C7: log entry 29). An EX or FL destination is written last:
decision D7, log entry 15. -/
def Obligations.MliResult : Prop :=
  ∀ (b : OpB) (a : OpA) (s : State), b ≠ .push →
    ∃ r e : Word, e.toInt * 65536 + (r.toNat : Int) = (evaluate b a s).vb.toInt * (evaluate b a s).va.toInt ∧
      Writes (.mli b a) b a 3 (some e)
        (flagsFor r (e.toNat ≠ 0)
          ((evaluate b a s).vb.toInt * (evaluate b a s).va.toInt < -32768 ∨
           32767 < (evaluate b a s).vb.toInt * (evaluate b a s).va.toInt)) r s

/-- DIV and MOD (R135, R137), the zero divisor included; that MOD writes EX for a zero divisor only is the resolution C3,
log entry 29. An EX or FL destination is written last: decision D7, log entry 15. -/
def Obligations.DivModResults : Prop :=
  ∀ (b : OpB) (a : OpA) (s : State), b ≠ .push →
    let vb := (evaluate b a s).vb
    let va := (evaluate b a s).va
    (va ≠ 0x0000#16 →
      (∃ q e : Word, q.toNat = vb.toNat / va.toNat ∧ q.toNat * 65536 + e.toNat = vb.toNat * 65536 / va.toNat ∧
        Writes (.div b a) b a 4 (some e) (flagsFor q False False) q s) ∧
      (∃ m : Word, m.toNat < va.toNat ∧ (∃ q : Nat, vb.toNat = q * va.toNat + m.toNat) ∧
        Writes (.mod b a) b a 4 none (flagsFor m False False) m s)) ∧
    (va = 0x0000#16 →
      Writes (.div b a) b a 4 (some 0x0000#16) ⟨true, false, false, false⟩ 0x0000#16 s ∧
      Writes (.mod b a) b a 4 (some 0x0000#16) ⟨true, false, false, false⟩ 0x0000#16 s)

/-- DVI and MDI (R136, R138; DVI's EX formula and the wrap of -32768 / -1 are decision D11, MDI's EX for a zero divisor
only the resolution C3: log entry 29). An EX or FL destination is written last: decision D7, log entry 15. -/
def Obligations.DviMdiResults : Prop :=
  ∀ (b : OpB) (a : OpA) (s : State), b ≠ .push →
    let vb := (evaluate b a s).vb
    let va := (evaluate b a s).va
    (va ≠ 0x0000#16 →
      ∃ (q m f n : Int) (r : Word),
        vb.toInt = q * va.toInt + m ∧ m.natAbs < va.toInt.natAbs ∧ (0 < m → 0 < vb.toInt) ∧ (m < 0 → vb.toInt < 0) ∧
        vb.toInt * 65536 = f * va.toInt + n ∧ n.natAbs < va.toInt.natAbs ∧ (0 < n → 0 < vb.toInt) ∧
        (n < 0 → vb.toInt < 0) ∧ r.toInt = m ∧
        Writes (.dvi b a) b a 4 (some (BitVec.ofInt 16 f)) (flagsFor (BitVec.ofInt 16 q) False False)
          (BitVec.ofInt 16 q) s ∧
        Writes (.mdi b a) b a 4 none (flagsFor r False False) r s) ∧
    (va = 0x0000#16 →
      Writes (.dvi b a) b a 4 (some 0x0000#16) ⟨true, false, false, false⟩ 0x0000#16 s ∧
      Writes (.mdi b a) b a 4 (some 0x0000#16) ⟨true, false, false, false⟩ 0x0000#16 s)

/-- FXMUL (R200; O is decision D9, and C from EX the resolution C7: log entry 29). An EX or FL destination is written
last: decision D7, log entry 15. -/
def Obligations.FxmulResult : Prop :=
  ∀ (b : OpB) (a : OpA) (s : State), b ≠ .push →
    ∃ (q : Int) (e : Word), e.toNat < 256 ∧
      (evaluate b a s).vb.toInt * (evaluate b a s).va.toInt = q * 256 + (e.toNat : Int) ∧
      Writes (.fxmul b a) b a 4 (some e)
        (flagsFor (BitVec.ofInt 16 q) (e.toNat ≠ 0) (q < -32768 ∨ 32767 < q)) (BitVec.ofInt 16 q) s

/-- FXDIV (R201; a negative remainder as a two's complement word is decision D13, the silent truncation with O = 0 the
resolution C4: log entry 29). An EX or FL destination is written last: decision D7, log entry 15. -/
def Obligations.FxdivResult : Prop :=
  ∀ (b : OpB) (a : OpA) (s : State), b ≠ .push →
    let vb := (evaluate b a s).vb
    let va := (evaluate b a s).va
    (va ≠ 0x0000#16 →
      ∃ (q m : Int) (e : Word), vb.toInt * 256 = q * va.toInt + m ∧ m.natAbs < va.toInt.natAbs ∧
        (0 < m → 0 < vb.toInt) ∧ (m < 0 → vb.toInt < 0) ∧ e.toInt = m ∧
        Writes (.fxdiv b a) b a 8 (some e) (flagsFor (BitVec.ofInt 16 q) False False) (BitVec.ofInt 16 q) s) ∧
    (va = 0x0000#16 → Writes (.fxdiv b a) b a 8 (some 0x0000#16) ⟨true, false, false, false⟩ 0x0000#16 s)

/-- AND, BOR, XOR (R150 to R152), bit by bit. A destination FL is written after the flags: decision D7, log entry 15. -/
def Obligations.BitwiseResults : Prop :=
  ∀ (b : OpB) (a : OpA) (s : State), b ≠ .push →
    let vb := (evaluate b a s).vb
    let va := (evaluate b a s).va
    (∃ r : Word, (∀ k, r.getLsbD k = (vb.getLsbD k && va.getLsbD k)) ∧
      Writes (.and b a) b a 1 none (flagsFor r False False) r s) ∧
    (∃ r : Word, (∀ k, r.getLsbD k = (vb.getLsbD k || va.getLsbD k)) ∧
      Writes (.bor b a) b a 1 none (flagsFor r False False) r s) ∧
    (∃ r : Word, (∀ k, r.getLsbD k = (vb.getLsbD k != va.getLsbD k)) ∧
      Writes (.xor b a) b a 1 none (flagsFor r False False) r s)

/-- SHR (R153): b over EX is `b·2^16` shifted right by `n`. The unmasked amount and EX for 16 to 31 are decision D12
(U17, log entry 13). An EX or FL destination is written last: decision D7, log entry 15. -/
def Obligations.ShrResult : Prop :=
  ∀ (b : OpB) (a : OpA) (s : State), b ≠ .push →
    let vb := (evaluate b a s).vb
    let n := (evaluate b a s).va.toNat
    ∃ r e : Word, r.toNat * 65536 + e.toNat = vb.toNat * 65536 / 2 ^ n ∧
      Writes (.shr b a) b a 1 (some e)
        (flagsFor r (1 ≤ n ∧ n ≤ 15 ∧ vb.toNat / 2 ^ (n - 1) % 2 = 1) False) r s

/-- ASR (R154; the unmasked amount and EX are decision D12, log entry 13). An EX or FL destination is written last:
decision D7, log entry 15. -/
def Obligations.AsrResult : Prop :=
  ∀ (b : OpB) (a : OpA) (s : State), b ≠ .push →
    let vb := (evaluate b a s).vb
    let n := (evaluate b a s).va.toNat
    ∃ r e : Word, r.toInt = vb.toInt / (2 : Int) ^ n ∧ e.toNat = vb.toNat * 65536 / 2 ^ n % 65536 ∧
      Writes (.asr b a) b a 1 (some e)
        (flagsFor r ((1 ≤ n ∧ n ≤ 15 ∧ vb.toNat / 2 ^ (n - 1) % 2 = 1) ∨ (16 ≤ n ∧ vb.toInt < 0)) False) r s

/-- SHL (R155): EX over b is `b·2^n` modulo 2^32 (the unmasked amount and EX for 16 to 31 are decision D12, log entry
13). An EX or FL destination is written last: decision D7, log entry 15. -/
def Obligations.ShlResult : Prop :=
  ∀ (b : OpB) (a : OpA) (s : State), b ≠ .push →
    let vb := (evaluate b a s).vb
    let n := (evaluate b a s).va.toNat
    ∃ r e : Word, e.toNat * 65536 + r.toNat = vb.toNat * 2 ^ n % 4294967296 ∧
      Writes (.shl b a) b a 1 (some e)
        (flagsFor r (1 ≤ n ∧ n ≤ 15 ∧ vb.toNat / 2 ^ (16 - n) % 2 = 1) False) r s

/-- The unary instructions (R260 to R264; a literal destination and EX under NEG are decisions D29 and D30, log entry
29). A destination FL is written after the flags: decision D7, log entry 15. -/
def Obligations.UnaryResults : Prop :=
  ∀ (a : OpA) (s : State), a ≠ .pop →
    let v := (readA a s).1
    let u := (readA a s).2.charge (1 + costA a)
    (∃ r : Word, (r.toNat + v.toNat) % 65536 = 0 ∧
      exec (.neg a) s = .next (storeLoc (locA a s).1 r (u.setFl (flagsFor r (v.toNat ≠ 0) (v = 0x8000#16))))) ∧
    (∃ r : Word, r.toNat = 65535 - v.toNat ∧
      exec (.not a) s = .next (storeLoc (locA a s).1 r (u.setFl (flagsFor r False False)))) ∧
    (∃ r : Word, r.toInt = (if v.toNat % 256 < 128 then ((v.toNat % 256 : Nat) : Int) else (v.toNat % 256 : Nat) - 256) ∧
      exec (.sxb a) s = .next (storeLoc (locA a s).1 r
        (u.setFl ⟨decide (r.toNat = 0), s.fl.c, decide (128 ≤ v.toNat % 256), s.fl.o⟩))) ∧
    (∃ r : Word, r.toNat = v.toNat % 256 * 256 + v.toNat / 256 ∧
      exec (.swp a) s = .next (storeLoc (locA a s).1 r u))

/-- LDB b, a (R210), for every form. A destination FL is written after the flags: decision D7, log entry 15. -/
def Obligations.LdbResult : Prop :=
  ∀ (b : OpB) (a : OpA) (s : State),
    let ba := (readA a s).1
    let lb := locB b (readA a s).2
    let wd := memRead (BitVec.ofNat 16 (ba.toNat / 2)) lb.2
    ∃ r : Word, r.toNat = (if ba.toNat % 2 = 0 then wd.1.toNat / 256 else wd.1.toNat % 256) ∧
      exec (.ldb b a) s = .next (storeLoc lb.1 r
        ((wd.2.charge (2 + costA a + costB b)).setFl ⟨decide (r.toNat = 0), s.fl.c, false, s.fl.o⟩))

/-- STB a (R211): the accesses, and that in plain RAM exactly the named byte changes. -/
def Obligations.StbStoresOneByte : Prop :=
  ∀ (a : OpA) (s : State),
    let ba := (readA a s).1
    let wa : Word := BitVec.ofNat 16 (ba.toNat / 2)
    let old := memRead wa (readA a s).2
    let low := (s.reg .A).toNat % 256
    ∃ t new, new.toNat = (if ba.toNat % 2 = 0 then low * 256 + old.1.toNat % 256 else old.1.toNat / 256 * 256 + low) ∧
      t = (memWrite wa new old.2).charge (2 + costA a) ∧ exec (.stb a) s = .next t ∧
      t.regs = s.regs ∧ t.fl = s.fl ∧ t.ex = s.ex ∧
      (plainRam wa .read (readA a s).2 → plainRam wa .write (readA a s).2 →
        ∀ k, (t.mem.readByte k).toNat = if k = ba.toNat then low else (s.mem.readByte k).toNat)

/-- The conditions of IFB to IFU (R172 to R179); `SkipActs` says what holding and not holding do (R170). -/
def Obligations.SkipConditions : Prop :=
  ∀ (b : OpB) (a : OpA) (s : State), b ≠ .push →
    let vb := (evaluate b a s).vb
    let va := (evaluate b a s).va
    let t := (evaluate b a s).after.charge (2 + costA a + costB b)
    SkipActs (.ifb b a) (∃ k, vb.getLsbD k = true ∧ va.getLsbD k = true) s t ∧
    SkipActs (.ifc b a) (∀ k, ¬(vb.getLsbD k = true ∧ va.getLsbD k = true)) s t ∧
    SkipActs (.ife b a) (vb = va) s t ∧ SkipActs (.ifn b a) (vb ≠ va) s t ∧
    SkipActs (.ifg b a) (vb.toNat > va.toNat) s t ∧ SkipActs (.ifa b a) (vb.toInt > va.toInt) s t ∧
    SkipActs (.ifl b a) (vb.toNat < va.toNat) s t ∧ SkipActs (.ifu b a) (vb.toInt < va.toInt) s t

/-- `Skip()` as its own recursion (R171), with no bound: the fuel of `skipFrom` is never used up (log entry 23). -/
def Obligations.SkipPassesChain : Prop :=
  ∀ (s : State),
    let w := memRead s.pc s
    let t := (w.2.setPc (s.pc + BitVec.ofNat 16 (lengthOf w.1))).charge 1
    afterSkip s = if 0x10 ≤ (fieldO w.1).toNat ∧ (fieldO w.1).toNat ≤ 0x17 then afterSkip t else t

/-- The conditions of JZ to JLE (R223 to R235); that an untaken jump does not evaluate `a` is decision D6 (log entry 31). -/
def Obligations.JumpConditions : Prop :=
  ∀ (a : OpA) (s : State),
    JumpActs (.jz a) a (s.fl.z = true) s ∧ JumpActs (.jnz a) a (s.fl.z = false) s ∧
    JumpActs (.jc a) a (s.fl.c = true) s ∧ JumpActs (.jnc a) a (s.fl.c = false) s ∧
    JumpActs (.js a) a (s.fl.s = true) s ∧ JumpActs (.jns a) a (s.fl.s = false) s ∧
    JumpActs (.jo a) a (s.fl.o = true) s ∧
    JumpActs (.ja a) a (s.fl.c = false ∧ s.fl.z = false) s ∧ JumpActs (.jbe a) a (s.fl.c = true ∨ s.fl.z = true) s ∧
    JumpActs (.jge a) a (s.fl.s = s.fl.o) s ∧ JumpActs (.jl a) a (s.fl.s ≠ s.fl.o) s ∧
    JumpActs (.jg a) a (s.fl.z = false ∧ s.fl.s = s.fl.o) s ∧
    JumpActs (.jle a) a (s.fl.z = true ∨ s.fl.s ≠ s.fl.o) s

/-- The source's comparison tables (R194). -/
def Obligations.JumpsAfterCompare : Prop :=
  ∀ (b : OpB) (a x : OpA) (s t : State), exec (.cmp b a) s = .next t →
    let vb := (evaluate b a s).vb
    let va := (evaluate b a s).va
    JumpActs (.jz x) x (vb = va) t ∧ JumpActs (.jnz x) x (vb ≠ va) t ∧
    JumpActs (.jc x) x (vb.toNat < va.toNat) t ∧ JumpActs (.jnc x) x (va.toNat ≤ vb.toNat) t ∧
    JumpActs (.ja x) x (va.toNat < vb.toNat) t ∧ JumpActs (.jbe x) x (vb.toNat ≤ va.toNat) t ∧
    JumpActs (.jl x) x (vb.toInt < va.toInt) t ∧ JumpActs (.jge x) x (va.toInt ≤ vb.toInt) t ∧
    JumpActs (.jg x) x (va.toInt < vb.toInt) t ∧ JumpActs (.jle x) x (vb.toInt ≤ va.toInt) t

/-- JSR and BSR (R220, R221; the base of BSR's displacement is decision D2, log entry 27). The meaning starts with PC
past the first word, so the return address is PC plus the next words of `a`. -/
def Obligations.CallsPushReturnAddress : Prop :=
  ∀ (a : OpA) (s : State),
    let u := (readA a s).2
    let ret := s.pc + BitVec.ofNat 16 a.next.length
    let at_ := spAfterA a s.sp - 1#16
    let t := memWrite at_ ret (u.setSp at_)
    exec (.jsr a) s = .next ((t.setPc (readA a s).1).charge (3 + costA a)) ∧
    exec (.bsr a) s = .next ((t.setPc (ret + (readA a s).1)).charge (3 + costA a)) ∧
    t.sp = at_ ∧ t.regs = s.regs ∧ t.fl = s.fl ∧ t.ex = s.ex ∧ MemoryKept [at_] s t ∧
    (plainRam at_ .write u → t.mem.readWord at_.toNat = ret)

/-- INT a (R250), by IA, IQ and the queue's length. -/
def Obligations.IntPresentsMessage : Prop :=
  ∀ (a : OpA) (s : State),
    let m := (readA a s).1
    let u := (readA a s).2
    u.pc = s.pc + BitVec.ofNat 16 a.next.length ∧
    (s.ia = 0x0000#16 → exec (.int a) s = .next (u.charge (4 + costA a))) ∧
    (s.ia ≠ 0x0000#16 → s.iq = false → exec (.int a) s = .next ((dispatch m u).charge (4 + costA a))) ∧
    (s.ia ≠ 0x0000#16 → s.iq = true → s.queue.length < 256 → s.halted = false →
      exec (.int a) s = .next ((u.setQueue (s.queue ++ [m])).charge (4 + costA a))) ∧
    (s.ia ≠ 0x0000#16 → s.iq = true → exec (.int a) s = .next ((enqueue m u).charge (4 + costA a)))

/-- IAG, IAS, IAQ (R251, R252, R254). -/
def Obligations.HandlerRegisterInstructions : Prop :=
  ∀ (a : OpA) (s : State),
    (a ≠ .pop → exec (.iag a) s =
      .next (storeLoc (locA a s).1 s.ia (((s.setPc (s.pc + BitVec.ofNat 16 a.next.length)).charge (1 + costA a))))) ∧
    exec (.ias a) s = .next (((readA a s).2.setIa (readA a s).1).charge (1 + costA a)) ∧
    exec (.iaq a) s = .next (((readA a s).2.setIq ((readA a s).1 != 0x0000#16)).charge (1 + costA a))

/-- RFI (R253; an operand field other than 0 is decision D4, log entry 14). -/
def Obligations.RfiPopsFrame : Prop :=
  ∀ (a : OpA) (s : State), ∃ t, exec (.rfi a) s = .next t ∧ t.sp = s.sp + 2#16 ∧ t.iq = false ∧
    RegsKept [.A] s t ∧ t.ex = s.ex ∧ t.fl = s.fl ∧ t.ia = s.ia ∧ t.queue = s.queue ∧ t.halted = s.halted ∧
    t.mem = s.mem ∧ t.cycles = s.cycles + 3 ∧
    (plainRam s.sp .read s → t.reg .A = s.mem.readWord s.sp.toNat) ∧
    (plainRam s.sp .read s → plainRam (s.sp + 1#16) .read s →
      t.pc = s.mem.readWord (s.sp + 1#16).toNat ∧ t.mpuf = s.mpuf)

/-- BCOPY (R271): the direction rule makes the copy right for every overlap that does not wrap; in silent mode blocked
reads give 0 and blocked writes are dropped, without an end of the copy (R63; decision D20, log entry 24). The second
part: word by word over any range, address sums wrapping (decision D1, log entry 27). PC past the next word of a
non-zero operand field is decision D4, log entry 14. -/
def Obligations.BcopyCopiesBlock : Prop :=
  (∀ (a : OpA) (s : State),
    let src := (s.reg .A).toNat
    let dst := (s.reg .B).toNat
    let n := (s.reg .C).toNat
    let readable := fun x : Nat => x < s.cfg.ram.words ∧ mpuViolation (BitVec.ofNat 16 x) .read s = false
    let writable := fun x : Nat => x < s.cfg.ram.words ∧ mpuViolation (BitVec.ofNat 16 x) .write s = false
    (∀ k, k < n → src + k < 0xE000 ∧ dst + k < 0xE000) →
    (s.mpuCtrl.getLsbD 1 = false ∨
      ∀ k, k < n → mpuViolation (BitVec.ofNat 16 (src + k)) .read s = false ∧
        mpuViolation (BitVec.ofNat 16 (dst + k)) .write s = false) →
    ∃ t, exec (.bcopy a) s = .next t ∧
      (∀ w : Nat,
        (dst ≤ w → w < dst + n → writable w → readable (src + (w - dst)) →
          t.mem.readWord w = s.mem.readWord (src + (w - dst))) ∧
        (dst ≤ w → w < dst + n → writable w → ¬readable (src + (w - dst)) → t.mem.readWord w = 0x0000#16) ∧
        (¬(dst ≤ w ∧ w < dst + n ∧ writable w) → t.mem.readWord w = s.mem.readWord w)) ∧
      (t.reg .A).toNat = (src + n) % 65536 ∧ (t.reg .B).toNat = (dst + n) % 65536 ∧ t.reg .C = 0x0000#16 ∧
      RegsKept [.A, .B, .C] s t ∧ t.pc = s.pc + BitVec.ofNat 16 a.next.length ∧ t.sp = s.sp ∧ t.ex = s.ex ∧
      t.fl = s.fl ∧ t.mpuf = s.mpuf ∧ t.cycles = s.cycles + 2 + n) ∧
  (∀ (a : OpA) (s : State),
    let src := s.reg .A
    let dst := s.reg .B
    let n := (s.reg .C).toNat
    (s.mpuCtrl.getLsbD 1 = false ∨ s.mpuCtrl.getLsbD 0 = false) →
    (∀ k, k < n → dst + BitVec.ofNat 16 k ≠ 0xE008#16) →
    let order := if src.toNat < dst.toNat then (List.range n).reverse else List.range n
    let t := order.foldl (fun u k =>
      let r := memRead (src + BitVec.ofNat 16 k) u
      memWrite (dst + BitVec.ofNat 16 k) r.1 r.2) (passed a s)
    exec (.bcopy a) s = .next ((((t.setReg .A (src + BitVec.ofNat 16 n)).setReg .B (dst + BitVec.ofNat 16 n)).setReg .C
      0x0000#16).charge (2 + n)))

/-- BCOPY and the MPU (R272; the registers after a backward abort are decision D20, log entry 24). -/
def Obligations.BcopyStopsAtViolation : Prop :=
  ∀ (a : OpA) (s : State) (i : Nat),
    let src := s.reg .A
    let dst := s.reg .B
    let n := (s.reg .C).toNat
    s.mpuCtrl.getLsbD 1 = true → i < n →
    (mpuViolation (src + BitVec.ofNat 16 i) .read s = true ∨
      (plainRam (src + BitVec.ofNat 16 i) .read s ∧ mpuViolation (dst + BitVec.ofNat 16 i) .write s = true)) →
    (dst.toNat ≤ src.toNat →
      (∀ k, k < i → plainRam (src + BitVec.ofNat 16 k) .read s ∧ plainRam (dst + BitVec.ofNat 16 k) .write s) →
      ∃ t, exec (.bcopy a) s = .next t ∧ t.reg .A = src + BitVec.ofNat 16 i ∧ t.reg .B = dst + BitVec.ofNat 16 i ∧
        (t.reg .C).toNat = n - i ∧ t.mpuf = true ∧
        (src.toNat + n ≤ 65536 → dst.toNat + n ≤ 65536 → ∀ w : Nat, t.mem.readWord w =
          if dst.toNat ≤ w ∧ w < dst.toNat + i then s.mem.readWord (src.toNat + (w - dst.toNat)) else s.mem.readWord w)) ∧
    (src.toNat < dst.toNat →
      (∀ k, i < k → k < n → plainRam (src + BitVec.ofNat 16 k) .read s ∧ plainRam (dst + BitVec.ofNat 16 k) .write s) →
      ∃ t, exec (.bcopy a) s = .next t ∧ t.reg .A = src + BitVec.ofNat 16 i ∧ t.reg .B = dst + BitVec.ofNat 16 i ∧
        (t.reg .C).toNat = i + 1 ∧ t.mpuf = true ∧
        (src.toNat + n ≤ 65536 → dst.toNat + n ≤ 65536 → ∀ w : Nat, t.mem.readWord w =
          if dst.toNat + i < w ∧ w < dst.toNat + n then s.mem.readWord (src.toNat + (w - dst.toNat))
          else s.mem.readWord w))

/-- NOP, reserved, BRK, HLT (R273 to R277; the reserved encodings' operands are decisions D4 and D5, the debugger's stop
D24: log entries 14 and 17). -/
def Obligations.IdleInstructions : Prop :=
  ∀ (b : OpB) (a : OpA) (s : State),
    exec (.nop a) s = .next ((readA a s).2.charge (1 + costA a)) ∧
    exec (.reserved1F b a) s = .next ((locB b (readA a s).2).2.charge (1 + costA a + costB b)) ∧
    exec (.reserved15 a) s = .next ((passed a s).charge 1) ∧
    exec (.reserved16 a) s = .next ((passed a s).charge 1) ∧
    exec (.reserved17 a) s = .next ((passed a s).charge 1) ∧
    (s.cfg.debuggerAttached = false → exec (.brk a) s = .next ((passed a s).charge 1)) ∧
    (s.cfg.debuggerAttached = true →
      exec (.brk a) s = .next ((((passed a s).charge 1).emit .debugBreak).setHostStop .debugBreak)) ∧
    exec (.hlt a) s = .next (((passed a s).setHalted true).charge 1)

end
end

