-- ==== Sys2Proof/Laws/Decode.lean ====
section
/-! SUPPORT. The fields and the operand forms of an encoding, and how long it is (30_encoding.md R80 to R88). -/

namespace Sys2Proof

/-! ### Fields -/

theorem fieldA_packFields (af : BitVec 6) (bf o : BitVec 5) : fieldA (packFields af bf o) = af := by
  apply BitVec.eq_of_getLsbD_eq
  intro i hi
  simp only [fieldA, packFields, BitVec.getLsbD_extractLsb', BitVec.getLsbD_append, hi, decide_true, Bool.true_and]
  split
  · omega
  · split
    · omega
    · congr 1; omega

theorem fieldB_packFields (af : BitVec 6) (bf o : BitVec 5) : fieldB (packFields af bf o) = bf := by
  apply BitVec.eq_of_getLsbD_eq
  intro i hi
  simp only [fieldB, packFields, BitVec.getLsbD_extractLsb', BitVec.getLsbD_append, hi, decide_true, Bool.true_and]
  split
  · omega
  · split
    · congr 1; omega
    · omega

theorem fieldO_packFields (af : BitVec 6) (bf o : BitVec 5) : fieldO (packFields af bf o) = o := by
  apply BitVec.eq_of_getLsbD_eq
  intro i hi
  simp only [fieldO, packFields, BitVec.getLsbD_extractLsb', BitVec.getLsbD_append, hi, decide_true, Bool.true_and]
  split
  · simp
  · omega

theorem packFields_fields (w : Word) : packFields (fieldA w) (fieldB w) (fieldO w) = w := by
  apply BitVec.eq_of_getLsbD_eq
  intro i hi
  simp only [fieldA, fieldB, fieldO, packFields, BitVec.getLsbD_extractLsb', BitVec.getLsbD_append]
  split
  · rename_i h; simp [h]
  · split
    · rename_i h1 h2
      rw [show 5 + (i - 5) = i by omega]; simp [h2]
    · rename_i h1 h2
      rw [show 10 + (i - 5 - 5) = i by omega]; simp; omega

/-! ### Operand forms -/

theorem decodeReg_code (r : Reg) : decodeReg r.code = r := by cases r <;> rfl

theorem code_decodeReg (n : BitVec 3) : (decodeReg n).code = n := by revert n; decide

/-- The next word operand `a` takes from a list that starts with its own. -/
theorem OpA.decode_field (a : OpA) (h : a.wf = true) (nw : Word) (hn : a.next = [] ∨ a.next = [nw]) :
    decodeA a.field nw = a := by
  cases a with
  | reg r => cases r <;> rfl
  | ind r => cases r <;> rfl
  | idx r v => simp [OpA.next] at hn; subst hn; cases r <;> simp [decodeA, OpA.field, Reg.code, decodeReg]
  | pick v => simp [OpA.next] at hn; subst hn; rfl
  | dir v => simp [OpA.next] at hn; subst hn; rfl
  | lit v => simp [OpA.next] at hn; subst hn; rfl
  | inl v =>
    simp only [OpA.wf, decide_eq_true_eq] at h
    have hv : v = BitVec.ofNat 16 ((v + 1#16).toNat + 0xFFFF) := by
      apply BitVec.eq_of_toNat_eq; simp; omega
    generalize hk : (v + 1#16).toNat = k at h hv
    subst hv
    clear hk hn
    interval_cases k <;> rfl
  | pop | peek | sp | pc | ex | fl => rfl

theorem OpB.decode_field (b : OpB) (nw : Word) (hn : b.next = [] ∨ b.next = [nw]) : decodeB b.field nw = b := by
  cases b with
  | reg r => cases r <;> rfl
  | ind r => cases r <;> rfl
  | idx r v => simp [OpB.next] at hn; subst hn; cases r <;> simp [decodeB, OpB.field, Reg.code, decodeReg]
  | pick v => simp [OpB.next] at hn; subst hn; rfl
  | dir v => simp [OpB.next] at hn; subst hn; rfl
  | push | peek | sp | pc | ex | fl => rfl

/-- Whether operand `a` has a next word is in its field (30_encoding.md R86). -/
theorem OpA.nwA_field (a : OpA) (h : a.wf = true) : nwA a.field = !a.next.isEmpty := by
  cases a with
  | reg r => cases r <;> rfl
  | ind r => cases r <;> rfl
  | idx r v => cases r <;> rfl
  | inl v =>
    simp only [OpA.wf, decide_eq_true_eq] at h
    have hv : v = BitVec.ofNat 16 ((v + 1#16).toNat + 0xFFFF) := by
      apply BitVec.eq_of_toNat_eq; simp; omega
    generalize hk : (v + 1#16).toNat = k at h hv
    subst hv
    clear hk
    interval_cases k <;> rfl
  | pick v | dir v | lit v | pop | peek | sp | pc | ex | fl => rfl

theorem OpB.nwB_field (b : OpB) : nwB b.field = !b.next.isEmpty := by
  cases b with
  | reg r => cases r <;> rfl
  | ind r => cases r <;> rfl
  | idx r v => cases r <;> rfl
  | pick v | dir v | push | peek | sp | pc | ex | fl => rfl

theorem OpA.next_length_le (a : OpA) : a.next.length ≤ 1 := by cases a <;> simp [OpA.next]

theorem OpB.next_length_le (b : OpB) : b.next.length ≤ 1 := by cases b <;> simp [OpB.next]

/-! ### Lengths (30_encoding.md R86) -/

theorem length_encodeBasic (o : BitVec 5) (ho : o ≠ 0#5) (b : OpB) (a : OpA) (h : a.wf = true) :
    (encodeBasic o b a).length = lengthOf (packFields a.field b.field o) := by
  have ha := a.next_length_le
  have hb := b.next_length_le
  unfold encodeBasic lengthOf hasNextB
  rw [fieldA_packFields, fieldB_packFields, fieldO_packFields, a.nwA_field h, b.nwB_field]
  rw [show (o != 0#5) = true from bne_iff_ne.mpr ho]
  rcases hA : a.next with _ | ⟨x, _ | ⟨y, l⟩⟩ <;> rcases hB : b.next with _ | ⟨u, _ | ⟨v, m⟩⟩ <;>
    simp_all

theorem length_encodeSpecial (sub : BitVec 5) (a : OpA) (h : a.wf = true) :
    (encodeSpecial sub a).length = lengthOf (packFields a.field sub 0#5) := by
  have ha := a.next_length_le
  unfold encodeSpecial lengthOf hasNextB
  rw [fieldA_packFields, fieldB_packFields, fieldO_packFields, a.nwA_field h]
  rcases hA : a.next with _ | ⟨x, _ | ⟨y, l⟩⟩ <;> simp_all

end Sys2Proof
end

