-- ==== Sys2Proof/Laws/Flags.lean ====
section
/-! SUPPORT. The computations of Sys2Proof/Machine/Flags.lean as exact integer arithmetic. -/

namespace Sys2Proof.Machine

/-! ### Flags of a result -/

/-- Bit 15 is set when the unsigned value is at least 2^15. -/
theorem getLsbD_15 (r : Word) : r.getLsbD 15 = decide (0x8000 ≤ r.toNat) := by
  rw [show r.getLsbD 15 = r.msb from (BitVec.msb_eq_getLsbD_last r).symm, BitVec.msb_eq_decide]

/-- Bit 15 is set when the signed value is negative. -/
theorem getLsbD_15_int (r : Word) : r.getLsbD 15 = decide (r.toInt < 0) := by
  rw [getLsbD_15]
  congr 1
  rw [BitVec.toInt_eq_toNat_cond]
  have := r.isLt
  split <;> simp <;> omega

theorem flagsOf_eq (r : Word) (c o : Bool) : flagsOf r c o = flagsFor r (c = true) (o = true) := by
  unfold flagsOf flagsFor
  rw [getLsbD_15]
  have : (r = 0x0000#16) = (r.toNat = 0) := by rw [← BitVec.toNat_inj]; rfl
  simp only [this, Bool.decide_eq_true]

theorem flagsFor_congr (r : Word) {c o c' o' : Prop} [Decidable c] [Decidable o] [Decidable c'] [Decidable o']
    (hc : c ↔ c') (ho : o ↔ o') : flagsFor r c o = flagsFor r c' o' := by
  unfold flagsFor
  simp only [hc, ho]

/-- The flags of a result, from what its carry and its overflow say. -/
theorem flagsOf_of (r : Word) {c o : Bool} {p q : Prop} [Decidable p] [Decidable q] (hc : c = true ↔ p)
    (ho : o = true ↔ q) : flagsOf r c o = flagsFor r p q := by
  rw [flagsOf_eq]
  exact flagsFor_congr r hc ho

/-! ### Sums and differences -/

theorem toInt_cases (v : Word) : (v.toNat < 32768 ∧ v.toInt = v.toNat) ∨ (32768 ≤ v.toNat ∧ v.toInt = (v.toNat : Int) - 65536) := by
  rw [BitVec.toInt_eq_toNat_cond]
  have := v.isLt
  split <;> simp <;> omega

/-- The overflow of a sum is that the exact signed sum does not fit. -/
theorem addWith_eq (k : Bool) (vb va : Word) :
    addWith k vb va =
      ⟨BitVec.ofNat 16 (vb.toNat + va.toNat + k.toNat),
       some (if 65535 < vb.toNat + va.toNat + k.toNat then 0x0001#16 else 0x0000#16),
       flagsFor (BitVec.ofNat 16 (vb.toNat + va.toNat + k.toNat)) (65535 < vb.toNat + va.toNat + k.toNat)
         (vb.toInt + va.toInt + (k.toNat : Int) < -32768 ∨ 32767 < vb.toInt + va.toInt + (k.toNat : Int))⟩ := by
  unfold addWith
  simp only
  have h0 := k.toNat_le
  have h1 := vb.isLt
  have h2 := va.isLt
  congr 1
  · simp only [gt_iff_lt, decide_eq_true_eq]
  · apply flagsOf_of
    · simp
    · rw [getLsbD_15, getLsbD_15, getLsbD_15]
      simp only [Bool.and_eq_true, beq_iff_eq, bne_iff_ne, ne_eq, decide_eq_decide, BitVec.toNat_ofNat]
      rcases toInt_cases vb with ⟨a1, a2⟩ | ⟨a1, a2⟩ <;> rcases toInt_cases va with ⟨b1, b2⟩ | ⟨b1, b2⟩ <;>
        rw [a2, b2] <;> omega

theorem subWith_eq (k : Bool) (vb va : Word) :
    subWith k vb va =
      ⟨BitVec.ofNat 16 (vb.toNat + 131072 - va.toNat - k.toNat),
       some (if vb.toNat < va.toNat + k.toNat then 0xFFFF#16 else 0x0000#16),
       flagsFor (BitVec.ofNat 16 (vb.toNat + 131072 - va.toNat - k.toNat)) (vb.toNat < va.toNat + k.toNat)
         (vb.toInt - va.toInt - (k.toNat : Int) < -32768 ∨ 32767 < vb.toInt - va.toInt - (k.toNat : Int))⟩ := by
  unfold subWith
  simp only
  have h0 := k.toNat_le
  have h1 := vb.isLt
  have h2 := va.isLt
  have hr : w16 ((vb.toNat : Int) - va.toNat - k.toNat) = BitVec.ofNat 16 (vb.toNat + 131072 - va.toNat - k.toNat) := by
    apply BitVec.eq_of_toNat_eq
    unfold w16
    rw [BitVec.toNat_ofInt, BitVec.toNat_ofNat]
    omega
  rw [hr]
  have hc : ((vb.toNat : Int) - va.toNat - k.toNat < 0) ↔ vb.toNat < va.toNat + k.toNat := by omega
  congr 1
  · simp only [hc, decide_eq_true_eq]
  · apply flagsOf_of
    · simp only [decide_eq_true_eq]; exact hc
    · rw [getLsbD_15, getLsbD_15, getLsbD_15]
      simp only [Bool.and_eq_true, bne_iff_ne, ne_eq, decide_eq_decide, BitVec.toNat_ofNat]
      rcases toInt_cases vb with ⟨a1, a2⟩ | ⟨a1, a2⟩ <;> rcases toInt_cases va with ⟨b1, b2⟩ | ⟨b1, b2⟩ <;>
        rw [a2, b2] <;> omega

/-! ### Words of integers -/

theorem toInt_ofInt_of {n : Int} (h1 : -32768 ≤ n) (h2 : n ≤ 32767) : (BitVec.ofInt 16 n).toInt = n := by
  rw [BitVec.toInt_ofInt]
  have : Int.bmod n (2 ^ 16) = n := by rw [Int.bmod_eq_of_le] <;> omega
  exact this

theorem outside16_iff (n : Int) : outside16 n = true ↔ (n < -32768 ∨ 32767 < n) := by
  unfold outside16
  simp

theorem ne_zero_iff (e : Word) : (decide (e ≠ 0x0000#16)) = true ↔ e.toNat ≠ 0 := by
  rw [decide_eq_true_eq, ne_eq, ← BitVec.toNat_inj]
  rfl

/-- Division rounding toward zero: the remainder is smaller than the divisor and has the dividend's sign. -/
theorem tdiv_spec (n d : Int) (hd : d ≠ 0) :
    n = n.tdiv d * d + n.tmod d ∧ (n.tmod d).natAbs < d.natAbs ∧ (0 < n.tmod d → 0 < n) ∧ (n.tmod d < 0 → n < 0) := by
  refine ⟨?_, ?_, fun h => ?_, fun h => ?_⟩
  · have := Int.mul_tdiv_add_tmod n d
    rw [Int.mul_comm] at this
    exact this.symm
  · rw [Int.natAbs_tmod]
    exact Nat.mod_lt _ (Int.natAbs_pos.mpr hd)
  · by_contra hn
    have := Int.tmod_nonneg d (show 0 ≤ -n by omega)
    rw [Int.neg_tmod] at this
    omega
  · by_contra hn
    have := Int.tmod_nonneg d (show 0 ≤ n by omega)
    omega

end Sys2Proof.Machine
end

