-- ==== Sys2Proof/Laws/Memory.lean ====
section
/-! SUPPORT. RAM as a list of cells: read after write, the canonical form, and equality of canonical memories
(20_memory.md R44, 70_reset_and_hazards.md R362). -/

namespace Sys2Proof.Machine

/-! ### One byte -/

theorem Memory.readByte_filter_ne (m : Memory) (k j : Nat) (h : j ≠ k) :
    Memory.readByte (m.filter (fun c => c.1 != k)) j = m.readByte j := by
  induction m with
  | nil => rfl
  | cons c m ih =>
    obtain ⟨i, u⟩ := c
    by_cases hi : i = k
    · subst hi
      simp [Memory.readByte, ih, Ne.symm h]
    · simp [hi, Memory.readByte, ih]

theorem Memory.readByte_filter_same (m : Memory) (k : Nat) :
    Memory.readByte (m.filter (fun c => c.1 != k)) k = 0x00#8 := by
  induction m with
  | nil => rfl
  | cons c m ih =>
    obtain ⟨i, u⟩ := c
    by_cases hi : i = k
    · simp [hi, ih]
    · simp [hi, Memory.readByte, ih]

theorem Memory.readByte_insert_same (m : Memory) (k : Nat) (v : Byte) (h : ∀ c ∈ m, c.1 ≠ k) :
    (m.insert k v).readByte k = v := by
  induction m with
  | nil => simp [Memory.insert, Memory.readByte]
  | cons c m ih =>
    obtain ⟨i, u⟩ := c
    have hi : i ≠ k := h (i, u) (by simp)
    simp only [Memory.insert]
    split
    · simp [Memory.readByte]
    · simp only [Memory.readByte, if_neg hi]
      exact ih (fun c hc => h c (by simp [hc]))

theorem Memory.readByte_insert_ne (m : Memory) (k j : Nat) (v : Byte) (h : j ≠ k) :
    (m.insert k v).readByte j = m.readByte j := by
  induction m with
  | nil => simp [Memory.insert, Memory.readByte, Ne.symm h]
  | cons c m ih =>
    obtain ⟨i, u⟩ := c
    simp only [Memory.insert]
    split
    · simp [Memory.readByte, Ne.symm h]
    · simp only [Memory.readByte, ih]

/-- Read after write, for any two keys and any list of cells. -/
theorem Memory.readByte_writeByte (m : Memory) (k j : Nat) (v : Byte) :
    (m.writeByte k v).readByte j = if j = k then v else m.readByte j := by
  unfold Memory.writeByte
  by_cases hv : v = 0x00#8
  · simp only [hv, if_true]
    split
    · subst_vars; exact readByte_filter_same _ _
    · exact readByte_filter_ne _ _ _ ‹_›
  · simp only [hv, if_false]
    split
    · subst_vars
      exact readByte_insert_same _ _ _ (by simp)
    · rw [readByte_insert_ne _ _ _ _ ‹_›, readByte_filter_ne _ _ _ ‹_›]

/-! ### One word -/

theorem mkWord_hi_lo (v : Word) : mkWord (hiByte v) (loByte v) = v := by
  apply BitVec.eq_of_getLsbD_eq
  intro i hi
  simp only [mkWord, hiByte, loByte, BitVec.getLsbD_append, BitVec.getLsbD_extractLsb']
  split
  · simp [*]
  · rw [show 8 + (i - 8) = i by omega]; simp; omega

theorem hiByte_mkWord (h l : Byte) : hiByte (mkWord h l) = h := by
  apply BitVec.eq_of_getLsbD_eq
  intro i hi
  simp only [mkWord, hiByte, BitVec.getLsbD_append, BitVec.getLsbD_extractLsb']
  rw [if_neg (by omega), show 8 + i - 8 = i by omega]; simp [hi]

theorem loByte_mkWord (h l : Byte) : loByte (mkWord h l) = l := by
  apply BitVec.eq_of_getLsbD_eq
  intro i hi
  simp only [mkWord, loByte, BitVec.getLsbD_append, BitVec.getLsbD_extractLsb']
  rw [if_pos (by omega), show 0 + i = i by omega]; simp [hi]

/-- The two keys of a written word hold its bytes, every other key what it held. -/
theorem Memory.readByte_writeWord (m : Memory) (w j : Nat) (v : Word) :
    (m.writeWord w v).readByte j =
      if j = 2 * w then hiByte v else if j = 2 * w + 1 then loByte v else m.readByte j := by
  unfold Memory.writeWord
  rw [readByte_writeByte, readByte_writeByte]
  by_cases h1 : j = 2 * w + 1
  · have h2 : j ≠ 2 * w := by omega
    simp [h1]
  · simp [h1]

theorem Memory.readByte_writeWord_other (m : Memory) (w j : Nat) (v : Word) (h : j ≠ 2 * w ∧ j ≠ 2 * w + 1) :
    (m.writeWord w v).readByte j = m.readByte j := by
  rw [readByte_writeWord, if_neg h.1, if_neg h.2]

theorem Memory.readWord_writeWord (m : Memory) (w x : Nat) (v : Word) :
    (m.writeWord w v).readWord x = if x = w then v else m.readWord x := by
  unfold Memory.readWord
  rw [readByte_writeWord, readByte_writeWord]
  by_cases h : x = w
  · subst h
    simp [mkWord_hi_lo]
  · rw [if_neg (by omega), if_neg (by omega), if_neg (by omega), if_neg (by omega), if_neg h]

/-! ### The canonical form -/

theorem Memory.wf_filter (m : Memory) (p : Host.Cell → Bool) (h : m.wf = true) : Memory.wf (m.filter p) = true := by
  induction m with
  | nil => rfl
  | cons c m ih =>
    obtain ⟨i, u⟩ := c
    simp only [Memory.wf, Bool.and_eq_true, List.all_eq_true] at h
    by_cases hp : p (i, u)
    · rw [List.filter_cons_of_pos hp]
      simp only [Memory.wf, Bool.and_eq_true, List.all_eq_true, ih h.2, and_true]
      exact ⟨h.1.1, fun c hc => h.1.2 c (List.mem_filter.mp hc).1⟩
    · rw [List.filter_cons_of_neg hp]
      exact ih h.2

theorem Memory.mem_insert {m : Memory} {k : Nat} {v : Byte} {c : Host.Cell} (h : c ∈ m.insert k v) :
    c = (k, v) ∨ c ∈ m := by
  induction m with
  | nil => simpa [Memory.insert] using h
  | cons d m ih =>
    obtain ⟨i, u⟩ := d
    simp only [Memory.insert] at h
    split at h
    · simpa using h
    · rcases List.mem_cons.mp h with h | h
      · simp [h]
      · rcases ih h with h | h <;> simp [h]

theorem Memory.wf_insert (m : Memory) (k : Nat) (v : Byte) (hv : v ≠ 0x00#8) (hk : ∀ c ∈ m, c.1 ≠ k)
    (h : m.wf = true) : (m.insert k v).wf = true := by
  induction m with
  | nil => simp [Memory.insert, Memory.wf, hv]
  | cons c m ih =>
    obtain ⟨i, u⟩ := c
    have hw := h
    simp only [Memory.wf, Bool.and_eq_true, List.all_eq_true, decide_eq_true_eq, bne_iff_ne] at h
    have hi : i ≠ k := hk (i, u) (by simp)
    simp only [Memory.insert]
    split
    · rename_i hlt
      simp only [Memory.wf, Bool.and_eq_true, List.all_eq_true, decide_eq_true_eq, bne_iff_ne]
      refine ⟨⟨hv, fun c hc => ?_⟩, h⟩
      rcases List.mem_cons.mp hc with hc | hc
      · rw [hc]; exact hlt
      · exact Nat.lt_trans hlt (h.1.2 c hc)
    · simp only [Memory.wf, Bool.and_eq_true, List.all_eq_true, decide_eq_true_eq, bne_iff_ne]
      refine ⟨⟨h.1.1, fun c hc => ?_⟩, ih (fun c hc => hk c (by simp [hc])) h.2⟩
      rcases Memory.mem_insert hc with hc | hc
      · rw [hc]; show i < k; omega
      · exact h.1.2 c hc

/-- A write keeps the canonical form. -/
theorem Memory.wf_writeByte (m : Memory) (k : Nat) (v : Byte) (h : m.wf = true) : (m.writeByte k v).wf = true := by
  unfold Memory.writeByte
  simp only
  split
  · exact wf_filter m _ h
  · exact wf_insert _ k v ‹_› (by simp) (wf_filter m _ h)

theorem Memory.wf_writeWord (m : Memory) (w : Nat) (v : Word) (h : m.wf = true) : (m.writeWord w v).wf = true :=
  wf_writeByte _ _ _ (wf_writeByte _ _ _ h)

/-- A write lists no key but its own and those that were listed. -/
theorem Memory.mem_writeByte {m : Memory} {k : Nat} {v : Byte} {c : Host.Cell} (h : c ∈ m.writeByte k v) :
    c = (k, v) ∨ c ∈ m := by
  unfold Memory.writeByte at h
  simp only at h
  split at h
  · exact .inr (List.mem_filter.mp h).1
  · rcases Memory.mem_insert h with h | h
    · exact .inl h
    · exact .inr (List.mem_filter.mp h).1

theorem Memory.mem_writeWord {m : Memory} {w : Nat} {v : Word} {c : Host.Cell} (h : c ∈ m.writeWord w v) :
    c.1 = 2 * w ∨ c.1 = 2 * w + 1 ∨ c ∈ m := by
  unfold Memory.writeWord at h
  rcases Memory.mem_writeByte h with h | h
  · exact .inr (.inl (by rw [h]))
  · rcases Memory.mem_writeByte h with h | h
    · exact .inl (by rw [h])
    · exact .inr (.inr h)

/-! ### Equality of canonical memories -/

theorem Memory.readByte_below (m : Memory) (k : Nat) (h : ∀ c ∈ m, k < c.1) : m.readByte k = 0x00#8 := by
  induction m with
  | nil => rfl
  | cons c m ih =>
    obtain ⟨i, u⟩ := c
    have : k < i := h (i, u) (by simp)
    simp only [Memory.readByte]
    rw [if_neg (by omega)]
    exact ih (fun c hc => h c (by simp [hc]))

/-- Two canonical memories that read the same everywhere are the same data. -/
theorem Memory.ext_of_wf (m n : Memory) (hm : m.wf = true) (hn : n.wf = true)
    (h : ∀ k, m.readByte k = n.readByte k) : m = n := by
  induction m generalizing n with
  | nil =>
    cases n with
    | nil => rfl
    | cons d n =>
      obtain ⟨j, v⟩ := d
      simp only [Memory.wf, Bool.and_eq_true, bne_iff_ne] at hn
      have := h j
      simp [Memory.readByte] at this
      exact absurd this.symm hn.1.1
  | cons c m ih =>
    obtain ⟨i, u⟩ := c
    have hm' := hm
    simp only [Memory.wf, Bool.and_eq_true, List.all_eq_true, decide_eq_true_eq, bne_iff_ne] at hm
    cases n with
    | nil =>
      have := h i
      simp [Memory.readByte] at this
      exact absurd this hm.1.1
    | cons d n =>
      obtain ⟨j, v⟩ := d
      simp only [Memory.wf, Bool.and_eq_true, List.all_eq_true, decide_eq_true_eq, bne_iff_ne] at hn
      have hij : i = j := by
        rcases Nat.lt_trichotomy i j with hlt | heq | hgt
        · have h0 : Memory.readByte ((j, v) :: n) i = 0x00#8 := by
            apply Memory.readByte_below
            intro c hc
            rcases List.mem_cons.mp hc with hc | hc
            · rw [hc]; exact hlt
            · exact Nat.lt_trans hlt (hn.1.2 c hc)
          have := h i
          rw [h0] at this
          simp [Memory.readByte] at this
          exact absurd this hm.1.1
        · exact heq
        · have h0 : Memory.readByte ((i, u) :: m) j = 0x00#8 := by
            apply Memory.readByte_below
            intro c hc
            rcases List.mem_cons.mp hc with hc | hc
            · rw [hc]; exact hgt
            · exact Nat.lt_trans hgt (hm.1.2 c hc)
          have := h j
          rw [h0] at this
          simp [Memory.readByte] at this
          exact absurd this.symm hn.1.1
      subst hij
      have huv : u = v := by simpa [Memory.readByte] using h i
      subst huv
      congr 1
      apply ih n hm.2 hn.2
      intro k
      by_cases hk : k = i
      · subst hk
        rw [Memory.readByte_below m k hm.1.2, Memory.readByte_below n k hn.1.2]
      · have := h k
        simpa [Memory.readByte, Ne.symm hk] using this

end Sys2Proof.Machine
end

