-- ==== Sys2Proof/Laws/State.lean ====
section
/-! SUPPORT. One lemma per field per update, so that no proof unfolds a record update. -/

namespace Sys2Proof.Machine.State

variable (s : State)

/-! ### General registers -/

@[simp] theorem reg_setReg_same (r : Reg) (v : Word) : (s.setReg r v).reg r = v := by cases r <;> rfl

theorem reg_setReg_ne {r q : Reg} (h : q ≠ r) (v : Word) : (s.setReg r v).reg q = s.reg q := by
  cases r <;> cases q <;> first | rfl | exact absurd rfl h

theorem reg_setReg (r q : Reg) (v : Word) : (s.setReg r v).reg q = if q = r then v else s.reg q := by
  split
  · subst_vars; exact reg_setReg_same s _ v
  · exact reg_setReg_ne s ‹_› v

theorem regs_ext {s t : State} (h : ∀ r, t.reg r = s.reg r) : t.regs = s.regs := by
  have ha := h .A
  have hb := h .B
  have hc := h .C
  have hx := h .X
  have hy := h .Y
  have hz := h .Z
  have hi := h .I
  have hj := h .J
  simp only [State.reg, GRegs.get] at ha hb hc hx hy hz hi hj
  cases ht : t.regs
  cases hs : s.regs
  simp_all

@[simp] theorem setReg_pc (r : Reg) (v : Word) : (s.setReg r v).pc = s.pc := rfl
@[simp] theorem setReg_sp (r : Reg) (v : Word) : (s.setReg r v).sp = s.sp := rfl
@[simp] theorem setReg_ex (r : Reg) (v : Word) : (s.setReg r v).ex = s.ex := rfl
@[simp] theorem setReg_fl (r : Reg) (v : Word) : (s.setReg r v).fl = s.fl := rfl
@[simp] theorem setReg_ia (r : Reg) (v : Word) : (s.setReg r v).ia = s.ia := rfl
@[simp] theorem setReg_iq (r : Reg) (v : Word) : (s.setReg r v).iq = s.iq := rfl
@[simp] theorem setReg_queue (r : Reg) (v : Word) : (s.setReg r v).queue = s.queue := rfl
@[simp] theorem setReg_halted (r : Reg) (v : Word) : (s.setReg r v).halted = s.halted := rfl
@[simp] theorem setReg_mpuf (r : Reg) (v : Word) : (s.setReg r v).mpuf = s.mpuf := rfl
@[simp] theorem setReg_sysIqm (r : Reg) (v : Word) : (s.setReg r v).sysIqm = s.sysIqm := rfl
@[simp] theorem setReg_mpuBase (r : Reg) (v : Word) : (s.setReg r v).mpuBase = s.mpuBase := rfl
@[simp] theorem setReg_mpuLimit (r : Reg) (v : Word) : (s.setReg r v).mpuLimit = s.mpuLimit := rfl
@[simp] theorem setReg_mpuCtrl (r : Reg) (v : Word) : (s.setReg r v).mpuCtrl = s.mpuCtrl := rfl
@[simp] theorem setReg_sysTicks (r : Reg) (v : Word) : (s.setReg r v).sysTicks = s.sysTicks := rfl
@[simp] theorem setReg_mem (r : Reg) (v : Word) : (s.setReg r v).mem = s.mem := rfl
@[simp] theorem setReg_arrivals (r : Reg) (v : Word) : (s.setReg r v).arrivals = s.arrivals := rfl
@[simp] theorem setReg_hostStop (r : Reg) (v : Word) : (s.setReg r v).hostStop = s.hostStop := rfl
@[simp] theorem setReg_supply (r : Reg) (v : Word) : (s.setReg r v).supply = s.supply := rfl
@[simp] theorem setReg_drawn (r : Reg) (v : Word) : (s.setReg r v).drawn = s.drawn := rfl
@[simp] theorem setReg_bus (r : Reg) (v : Word) : (s.setReg r v).bus = s.bus := rfl
@[simp] theorem setReg_cycles (r : Reg) (v : Word) : (s.setReg r v).cycles = s.cycles := rfl
@[simp] theorem setReg_cfg (r : Reg) (v : Word) : (s.setReg r v).cfg = s.cfg := rfl
@[simp] theorem setReg_regs (r : Reg) (v : Word) : (s.setReg r v).regs = s.regs.set r v := rfl

/-! ### setPc -/

@[simp] theorem setPc_regs (v : Word) : (s.setPc v).regs = s.regs := rfl
@[simp] theorem setPc_pc (v : Word) : (s.setPc v).pc = v := rfl
@[simp] theorem setPc_sp (v : Word) : (s.setPc v).sp = s.sp := rfl
@[simp] theorem setPc_ex (v : Word) : (s.setPc v).ex = s.ex := rfl
@[simp] theorem setPc_fl (v : Word) : (s.setPc v).fl = s.fl := rfl
@[simp] theorem setPc_ia (v : Word) : (s.setPc v).ia = s.ia := rfl
@[simp] theorem setPc_iq (v : Word) : (s.setPc v).iq = s.iq := rfl
@[simp] theorem setPc_queue (v : Word) : (s.setPc v).queue = s.queue := rfl
@[simp] theorem setPc_halted (v : Word) : (s.setPc v).halted = s.halted := rfl
@[simp] theorem setPc_mpuf (v : Word) : (s.setPc v).mpuf = s.mpuf := rfl
@[simp] theorem setPc_sysIqm (v : Word) : (s.setPc v).sysIqm = s.sysIqm := rfl
@[simp] theorem setPc_mpuBase (v : Word) : (s.setPc v).mpuBase = s.mpuBase := rfl
@[simp] theorem setPc_mpuLimit (v : Word) : (s.setPc v).mpuLimit = s.mpuLimit := rfl
@[simp] theorem setPc_mpuCtrl (v : Word) : (s.setPc v).mpuCtrl = s.mpuCtrl := rfl
@[simp] theorem setPc_sysTicks (v : Word) : (s.setPc v).sysTicks = s.sysTicks := rfl
@[simp] theorem setPc_mem (v : Word) : (s.setPc v).mem = s.mem := rfl
@[simp] theorem setPc_arrivals (v : Word) : (s.setPc v).arrivals = s.arrivals := rfl
@[simp] theorem setPc_hostStop (v : Word) : (s.setPc v).hostStop = s.hostStop := rfl
@[simp] theorem setPc_supply (v : Word) : (s.setPc v).supply = s.supply := rfl
@[simp] theorem setPc_drawn (v : Word) : (s.setPc v).drawn = s.drawn := rfl
@[simp] theorem setPc_bus (v : Word) : (s.setPc v).bus = s.bus := rfl
@[simp] theorem setPc_cycles (v : Word) : (s.setPc v).cycles = s.cycles := rfl
@[simp] theorem setPc_cfg (v : Word) : (s.setPc v).cfg = s.cfg := rfl
@[simp] theorem setPc_reg (v : Word) (r : Reg) : (s.setPc v).reg r = s.reg r := rfl

/-! ### setSp -/

@[simp] theorem setSp_regs (v : Word) : (s.setSp v).regs = s.regs := rfl
@[simp] theorem setSp_pc (v : Word) : (s.setSp v).pc = s.pc := rfl
@[simp] theorem setSp_sp (v : Word) : (s.setSp v).sp = v := rfl
@[simp] theorem setSp_ex (v : Word) : (s.setSp v).ex = s.ex := rfl
@[simp] theorem setSp_fl (v : Word) : (s.setSp v).fl = s.fl := rfl
@[simp] theorem setSp_ia (v : Word) : (s.setSp v).ia = s.ia := rfl
@[simp] theorem setSp_iq (v : Word) : (s.setSp v).iq = s.iq := rfl
@[simp] theorem setSp_queue (v : Word) : (s.setSp v).queue = s.queue := rfl
@[simp] theorem setSp_halted (v : Word) : (s.setSp v).halted = s.halted := rfl
@[simp] theorem setSp_mpuf (v : Word) : (s.setSp v).mpuf = s.mpuf := rfl
@[simp] theorem setSp_sysIqm (v : Word) : (s.setSp v).sysIqm = s.sysIqm := rfl
@[simp] theorem setSp_mpuBase (v : Word) : (s.setSp v).mpuBase = s.mpuBase := rfl
@[simp] theorem setSp_mpuLimit (v : Word) : (s.setSp v).mpuLimit = s.mpuLimit := rfl
@[simp] theorem setSp_mpuCtrl (v : Word) : (s.setSp v).mpuCtrl = s.mpuCtrl := rfl
@[simp] theorem setSp_sysTicks (v : Word) : (s.setSp v).sysTicks = s.sysTicks := rfl
@[simp] theorem setSp_mem (v : Word) : (s.setSp v).mem = s.mem := rfl
@[simp] theorem setSp_arrivals (v : Word) : (s.setSp v).arrivals = s.arrivals := rfl
@[simp] theorem setSp_hostStop (v : Word) : (s.setSp v).hostStop = s.hostStop := rfl
@[simp] theorem setSp_supply (v : Word) : (s.setSp v).supply = s.supply := rfl
@[simp] theorem setSp_drawn (v : Word) : (s.setSp v).drawn = s.drawn := rfl
@[simp] theorem setSp_bus (v : Word) : (s.setSp v).bus = s.bus := rfl
@[simp] theorem setSp_cycles (v : Word) : (s.setSp v).cycles = s.cycles := rfl
@[simp] theorem setSp_cfg (v : Word) : (s.setSp v).cfg = s.cfg := rfl
@[simp] theorem setSp_reg (v : Word) (r : Reg) : (s.setSp v).reg r = s.reg r := rfl

/-! ### setEx -/

@[simp] theorem setEx_regs (v : Word) : (s.setEx v).regs = s.regs := rfl
@[simp] theorem setEx_pc (v : Word) : (s.setEx v).pc = s.pc := rfl
@[simp] theorem setEx_sp (v : Word) : (s.setEx v).sp = s.sp := rfl
@[simp] theorem setEx_ex (v : Word) : (s.setEx v).ex = v := rfl
@[simp] theorem setEx_fl (v : Word) : (s.setEx v).fl = s.fl := rfl
@[simp] theorem setEx_ia (v : Word) : (s.setEx v).ia = s.ia := rfl
@[simp] theorem setEx_iq (v : Word) : (s.setEx v).iq = s.iq := rfl
@[simp] theorem setEx_queue (v : Word) : (s.setEx v).queue = s.queue := rfl
@[simp] theorem setEx_halted (v : Word) : (s.setEx v).halted = s.halted := rfl
@[simp] theorem setEx_mpuf (v : Word) : (s.setEx v).mpuf = s.mpuf := rfl
@[simp] theorem setEx_sysIqm (v : Word) : (s.setEx v).sysIqm = s.sysIqm := rfl
@[simp] theorem setEx_mpuBase (v : Word) : (s.setEx v).mpuBase = s.mpuBase := rfl
@[simp] theorem setEx_mpuLimit (v : Word) : (s.setEx v).mpuLimit = s.mpuLimit := rfl
@[simp] theorem setEx_mpuCtrl (v : Word) : (s.setEx v).mpuCtrl = s.mpuCtrl := rfl
@[simp] theorem setEx_sysTicks (v : Word) : (s.setEx v).sysTicks = s.sysTicks := rfl
@[simp] theorem setEx_mem (v : Word) : (s.setEx v).mem = s.mem := rfl
@[simp] theorem setEx_arrivals (v : Word) : (s.setEx v).arrivals = s.arrivals := rfl
@[simp] theorem setEx_hostStop (v : Word) : (s.setEx v).hostStop = s.hostStop := rfl
@[simp] theorem setEx_supply (v : Word) : (s.setEx v).supply = s.supply := rfl
@[simp] theorem setEx_drawn (v : Word) : (s.setEx v).drawn = s.drawn := rfl
@[simp] theorem setEx_bus (v : Word) : (s.setEx v).bus = s.bus := rfl
@[simp] theorem setEx_cycles (v : Word) : (s.setEx v).cycles = s.cycles := rfl
@[simp] theorem setEx_cfg (v : Word) : (s.setEx v).cfg = s.cfg := rfl
@[simp] theorem setEx_reg (v : Word) (r : Reg) : (s.setEx v).reg r = s.reg r := rfl

/-! ### setFl -/

@[simp] theorem setFl_regs (v : Flags) : (s.setFl v).regs = s.regs := rfl
@[simp] theorem setFl_pc (v : Flags) : (s.setFl v).pc = s.pc := rfl
@[simp] theorem setFl_sp (v : Flags) : (s.setFl v).sp = s.sp := rfl
@[simp] theorem setFl_ex (v : Flags) : (s.setFl v).ex = s.ex := rfl
@[simp] theorem setFl_fl (v : Flags) : (s.setFl v).fl = v := rfl
@[simp] theorem setFl_ia (v : Flags) : (s.setFl v).ia = s.ia := rfl
@[simp] theorem setFl_iq (v : Flags) : (s.setFl v).iq = s.iq := rfl
@[simp] theorem setFl_queue (v : Flags) : (s.setFl v).queue = s.queue := rfl
@[simp] theorem setFl_halted (v : Flags) : (s.setFl v).halted = s.halted := rfl
@[simp] theorem setFl_mpuf (v : Flags) : (s.setFl v).mpuf = s.mpuf := rfl
@[simp] theorem setFl_sysIqm (v : Flags) : (s.setFl v).sysIqm = s.sysIqm := rfl
@[simp] theorem setFl_mpuBase (v : Flags) : (s.setFl v).mpuBase = s.mpuBase := rfl
@[simp] theorem setFl_mpuLimit (v : Flags) : (s.setFl v).mpuLimit = s.mpuLimit := rfl
@[simp] theorem setFl_mpuCtrl (v : Flags) : (s.setFl v).mpuCtrl = s.mpuCtrl := rfl
@[simp] theorem setFl_sysTicks (v : Flags) : (s.setFl v).sysTicks = s.sysTicks := rfl
@[simp] theorem setFl_mem (v : Flags) : (s.setFl v).mem = s.mem := rfl
@[simp] theorem setFl_arrivals (v : Flags) : (s.setFl v).arrivals = s.arrivals := rfl
@[simp] theorem setFl_hostStop (v : Flags) : (s.setFl v).hostStop = s.hostStop := rfl
@[simp] theorem setFl_supply (v : Flags) : (s.setFl v).supply = s.supply := rfl
@[simp] theorem setFl_drawn (v : Flags) : (s.setFl v).drawn = s.drawn := rfl
@[simp] theorem setFl_bus (v : Flags) : (s.setFl v).bus = s.bus := rfl
@[simp] theorem setFl_cycles (v : Flags) : (s.setFl v).cycles = s.cycles := rfl
@[simp] theorem setFl_cfg (v : Flags) : (s.setFl v).cfg = s.cfg := rfl
@[simp] theorem setFl_reg (v : Flags) (r : Reg) : (s.setFl v).reg r = s.reg r := rfl

/-! ### setIa -/

@[simp] theorem setIa_regs (v : Word) : (s.setIa v).regs = s.regs := rfl
@[simp] theorem setIa_pc (v : Word) : (s.setIa v).pc = s.pc := rfl
@[simp] theorem setIa_sp (v : Word) : (s.setIa v).sp = s.sp := rfl
@[simp] theorem setIa_ex (v : Word) : (s.setIa v).ex = s.ex := rfl
@[simp] theorem setIa_fl (v : Word) : (s.setIa v).fl = s.fl := rfl
@[simp] theorem setIa_ia (v : Word) : (s.setIa v).ia = v := rfl
@[simp] theorem setIa_iq (v : Word) : (s.setIa v).iq = s.iq := rfl
@[simp] theorem setIa_queue (v : Word) : (s.setIa v).queue = s.queue := rfl
@[simp] theorem setIa_halted (v : Word) : (s.setIa v).halted = s.halted := rfl
@[simp] theorem setIa_mpuf (v : Word) : (s.setIa v).mpuf = s.mpuf := rfl
@[simp] theorem setIa_sysIqm (v : Word) : (s.setIa v).sysIqm = s.sysIqm := rfl
@[simp] theorem setIa_mpuBase (v : Word) : (s.setIa v).mpuBase = s.mpuBase := rfl
@[simp] theorem setIa_mpuLimit (v : Word) : (s.setIa v).mpuLimit = s.mpuLimit := rfl
@[simp] theorem setIa_mpuCtrl (v : Word) : (s.setIa v).mpuCtrl = s.mpuCtrl := rfl
@[simp] theorem setIa_sysTicks (v : Word) : (s.setIa v).sysTicks = s.sysTicks := rfl
@[simp] theorem setIa_mem (v : Word) : (s.setIa v).mem = s.mem := rfl
@[simp] theorem setIa_arrivals (v : Word) : (s.setIa v).arrivals = s.arrivals := rfl
@[simp] theorem setIa_hostStop (v : Word) : (s.setIa v).hostStop = s.hostStop := rfl
@[simp] theorem setIa_supply (v : Word) : (s.setIa v).supply = s.supply := rfl
@[simp] theorem setIa_drawn (v : Word) : (s.setIa v).drawn = s.drawn := rfl
@[simp] theorem setIa_bus (v : Word) : (s.setIa v).bus = s.bus := rfl
@[simp] theorem setIa_cycles (v : Word) : (s.setIa v).cycles = s.cycles := rfl
@[simp] theorem setIa_cfg (v : Word) : (s.setIa v).cfg = s.cfg := rfl
@[simp] theorem setIa_reg (v : Word) (r : Reg) : (s.setIa v).reg r = s.reg r := rfl

/-! ### setIq -/

@[simp] theorem setIq_regs (v : Bool) : (s.setIq v).regs = s.regs := rfl
@[simp] theorem setIq_pc (v : Bool) : (s.setIq v).pc = s.pc := rfl
@[simp] theorem setIq_sp (v : Bool) : (s.setIq v).sp = s.sp := rfl
@[simp] theorem setIq_ex (v : Bool) : (s.setIq v).ex = s.ex := rfl
@[simp] theorem setIq_fl (v : Bool) : (s.setIq v).fl = s.fl := rfl
@[simp] theorem setIq_ia (v : Bool) : (s.setIq v).ia = s.ia := rfl
@[simp] theorem setIq_iq (v : Bool) : (s.setIq v).iq = v := rfl
@[simp] theorem setIq_queue (v : Bool) : (s.setIq v).queue = s.queue := rfl
@[simp] theorem setIq_halted (v : Bool) : (s.setIq v).halted = s.halted := rfl
@[simp] theorem setIq_mpuf (v : Bool) : (s.setIq v).mpuf = s.mpuf := rfl
@[simp] theorem setIq_sysIqm (v : Bool) : (s.setIq v).sysIqm = s.sysIqm := rfl
@[simp] theorem setIq_mpuBase (v : Bool) : (s.setIq v).mpuBase = s.mpuBase := rfl
@[simp] theorem setIq_mpuLimit (v : Bool) : (s.setIq v).mpuLimit = s.mpuLimit := rfl
@[simp] theorem setIq_mpuCtrl (v : Bool) : (s.setIq v).mpuCtrl = s.mpuCtrl := rfl
@[simp] theorem setIq_sysTicks (v : Bool) : (s.setIq v).sysTicks = s.sysTicks := rfl
@[simp] theorem setIq_mem (v : Bool) : (s.setIq v).mem = s.mem := rfl
@[simp] theorem setIq_arrivals (v : Bool) : (s.setIq v).arrivals = s.arrivals := rfl
@[simp] theorem setIq_hostStop (v : Bool) : (s.setIq v).hostStop = s.hostStop := rfl
@[simp] theorem setIq_supply (v : Bool) : (s.setIq v).supply = s.supply := rfl
@[simp] theorem setIq_drawn (v : Bool) : (s.setIq v).drawn = s.drawn := rfl
@[simp] theorem setIq_bus (v : Bool) : (s.setIq v).bus = s.bus := rfl
@[simp] theorem setIq_cycles (v : Bool) : (s.setIq v).cycles = s.cycles := rfl
@[simp] theorem setIq_cfg (v : Bool) : (s.setIq v).cfg = s.cfg := rfl
@[simp] theorem setIq_reg (v : Bool) (r : Reg) : (s.setIq v).reg r = s.reg r := rfl

/-! ### setQueue -/

@[simp] theorem setQueue_regs (v : List Word) : (s.setQueue v).regs = s.regs := rfl
@[simp] theorem setQueue_pc (v : List Word) : (s.setQueue v).pc = s.pc := rfl
@[simp] theorem setQueue_sp (v : List Word) : (s.setQueue v).sp = s.sp := rfl
@[simp] theorem setQueue_ex (v : List Word) : (s.setQueue v).ex = s.ex := rfl
@[simp] theorem setQueue_fl (v : List Word) : (s.setQueue v).fl = s.fl := rfl
@[simp] theorem setQueue_ia (v : List Word) : (s.setQueue v).ia = s.ia := rfl
@[simp] theorem setQueue_iq (v : List Word) : (s.setQueue v).iq = s.iq := rfl
@[simp] theorem setQueue_queue (v : List Word) : (s.setQueue v).queue = v := rfl
@[simp] theorem setQueue_halted (v : List Word) : (s.setQueue v).halted = s.halted := rfl
@[simp] theorem setQueue_mpuf (v : List Word) : (s.setQueue v).mpuf = s.mpuf := rfl
@[simp] theorem setQueue_sysIqm (v : List Word) : (s.setQueue v).sysIqm = s.sysIqm := rfl
@[simp] theorem setQueue_mpuBase (v : List Word) : (s.setQueue v).mpuBase = s.mpuBase := rfl
@[simp] theorem setQueue_mpuLimit (v : List Word) : (s.setQueue v).mpuLimit = s.mpuLimit := rfl
@[simp] theorem setQueue_mpuCtrl (v : List Word) : (s.setQueue v).mpuCtrl = s.mpuCtrl := rfl
@[simp] theorem setQueue_sysTicks (v : List Word) : (s.setQueue v).sysTicks = s.sysTicks := rfl
@[simp] theorem setQueue_mem (v : List Word) : (s.setQueue v).mem = s.mem := rfl
@[simp] theorem setQueue_arrivals (v : List Word) : (s.setQueue v).arrivals = s.arrivals := rfl
@[simp] theorem setQueue_hostStop (v : List Word) : (s.setQueue v).hostStop = s.hostStop := rfl
@[simp] theorem setQueue_supply (v : List Word) : (s.setQueue v).supply = s.supply := rfl
@[simp] theorem setQueue_drawn (v : List Word) : (s.setQueue v).drawn = s.drawn := rfl
@[simp] theorem setQueue_bus (v : List Word) : (s.setQueue v).bus = s.bus := rfl
@[simp] theorem setQueue_cycles (v : List Word) : (s.setQueue v).cycles = s.cycles := rfl
@[simp] theorem setQueue_cfg (v : List Word) : (s.setQueue v).cfg = s.cfg := rfl
@[simp] theorem setQueue_reg (v : List Word) (r : Reg) : (s.setQueue v).reg r = s.reg r := rfl

/-! ### setHalted -/

@[simp] theorem setHalted_regs (v : Bool) : (s.setHalted v).regs = s.regs := rfl
@[simp] theorem setHalted_pc (v : Bool) : (s.setHalted v).pc = s.pc := rfl
@[simp] theorem setHalted_sp (v : Bool) : (s.setHalted v).sp = s.sp := rfl
@[simp] theorem setHalted_ex (v : Bool) : (s.setHalted v).ex = s.ex := rfl
@[simp] theorem setHalted_fl (v : Bool) : (s.setHalted v).fl = s.fl := rfl
@[simp] theorem setHalted_ia (v : Bool) : (s.setHalted v).ia = s.ia := rfl
@[simp] theorem setHalted_iq (v : Bool) : (s.setHalted v).iq = s.iq := rfl
@[simp] theorem setHalted_queue (v : Bool) : (s.setHalted v).queue = s.queue := rfl
@[simp] theorem setHalted_halted (v : Bool) : (s.setHalted v).halted = v := rfl
@[simp] theorem setHalted_mpuf (v : Bool) : (s.setHalted v).mpuf = s.mpuf := rfl
@[simp] theorem setHalted_sysIqm (v : Bool) : (s.setHalted v).sysIqm = s.sysIqm := rfl
@[simp] theorem setHalted_mpuBase (v : Bool) : (s.setHalted v).mpuBase = s.mpuBase := rfl
@[simp] theorem setHalted_mpuLimit (v : Bool) : (s.setHalted v).mpuLimit = s.mpuLimit := rfl
@[simp] theorem setHalted_mpuCtrl (v : Bool) : (s.setHalted v).mpuCtrl = s.mpuCtrl := rfl
@[simp] theorem setHalted_sysTicks (v : Bool) : (s.setHalted v).sysTicks = s.sysTicks := rfl
@[simp] theorem setHalted_mem (v : Bool) : (s.setHalted v).mem = s.mem := rfl
@[simp] theorem setHalted_arrivals (v : Bool) : (s.setHalted v).arrivals = s.arrivals := rfl
@[simp] theorem setHalted_hostStop (v : Bool) : (s.setHalted v).hostStop = s.hostStop := rfl
@[simp] theorem setHalted_supply (v : Bool) : (s.setHalted v).supply = s.supply := rfl
@[simp] theorem setHalted_drawn (v : Bool) : (s.setHalted v).drawn = s.drawn := rfl
@[simp] theorem setHalted_bus (v : Bool) : (s.setHalted v).bus = s.bus := rfl
@[simp] theorem setHalted_cycles (v : Bool) : (s.setHalted v).cycles = s.cycles := rfl
@[simp] theorem setHalted_cfg (v : Bool) : (s.setHalted v).cfg = s.cfg := rfl
@[simp] theorem setHalted_reg (v : Bool) (r : Reg) : (s.setHalted v).reg r = s.reg r := rfl

/-! ### setMpuf -/

@[simp] theorem setMpuf_regs (v : Bool) : (s.setMpuf v).regs = s.regs := rfl
@[simp] theorem setMpuf_pc (v : Bool) : (s.setMpuf v).pc = s.pc := rfl
@[simp] theorem setMpuf_sp (v : Bool) : (s.setMpuf v).sp = s.sp := rfl
@[simp] theorem setMpuf_ex (v : Bool) : (s.setMpuf v).ex = s.ex := rfl
@[simp] theorem setMpuf_fl (v : Bool) : (s.setMpuf v).fl = s.fl := rfl
@[simp] theorem setMpuf_ia (v : Bool) : (s.setMpuf v).ia = s.ia := rfl
@[simp] theorem setMpuf_iq (v : Bool) : (s.setMpuf v).iq = s.iq := rfl
@[simp] theorem setMpuf_queue (v : Bool) : (s.setMpuf v).queue = s.queue := rfl
@[simp] theorem setMpuf_halted (v : Bool) : (s.setMpuf v).halted = s.halted := rfl
@[simp] theorem setMpuf_mpuf (v : Bool) : (s.setMpuf v).mpuf = v := rfl
@[simp] theorem setMpuf_sysIqm (v : Bool) : (s.setMpuf v).sysIqm = s.sysIqm := rfl
@[simp] theorem setMpuf_mpuBase (v : Bool) : (s.setMpuf v).mpuBase = s.mpuBase := rfl
@[simp] theorem setMpuf_mpuLimit (v : Bool) : (s.setMpuf v).mpuLimit = s.mpuLimit := rfl
@[simp] theorem setMpuf_mpuCtrl (v : Bool) : (s.setMpuf v).mpuCtrl = s.mpuCtrl := rfl
@[simp] theorem setMpuf_sysTicks (v : Bool) : (s.setMpuf v).sysTicks = s.sysTicks := rfl
@[simp] theorem setMpuf_mem (v : Bool) : (s.setMpuf v).mem = s.mem := rfl
@[simp] theorem setMpuf_arrivals (v : Bool) : (s.setMpuf v).arrivals = s.arrivals := rfl
@[simp] theorem setMpuf_hostStop (v : Bool) : (s.setMpuf v).hostStop = s.hostStop := rfl
@[simp] theorem setMpuf_supply (v : Bool) : (s.setMpuf v).supply = s.supply := rfl
@[simp] theorem setMpuf_drawn (v : Bool) : (s.setMpuf v).drawn = s.drawn := rfl
@[simp] theorem setMpuf_bus (v : Bool) : (s.setMpuf v).bus = s.bus := rfl
@[simp] theorem setMpuf_cycles (v : Bool) : (s.setMpuf v).cycles = s.cycles := rfl
@[simp] theorem setMpuf_cfg (v : Bool) : (s.setMpuf v).cfg = s.cfg := rfl
@[simp] theorem setMpuf_reg (v : Bool) (r : Reg) : (s.setMpuf v).reg r = s.reg r := rfl

/-! ### setSysIqm -/

@[simp] theorem setSysIqm_regs (v : Word) : (s.setSysIqm v).regs = s.regs := rfl
@[simp] theorem setSysIqm_pc (v : Word) : (s.setSysIqm v).pc = s.pc := rfl
@[simp] theorem setSysIqm_sp (v : Word) : (s.setSysIqm v).sp = s.sp := rfl
@[simp] theorem setSysIqm_ex (v : Word) : (s.setSysIqm v).ex = s.ex := rfl
@[simp] theorem setSysIqm_fl (v : Word) : (s.setSysIqm v).fl = s.fl := rfl
@[simp] theorem setSysIqm_ia (v : Word) : (s.setSysIqm v).ia = s.ia := rfl
@[simp] theorem setSysIqm_iq (v : Word) : (s.setSysIqm v).iq = s.iq := rfl
@[simp] theorem setSysIqm_queue (v : Word) : (s.setSysIqm v).queue = s.queue := rfl
@[simp] theorem setSysIqm_halted (v : Word) : (s.setSysIqm v).halted = s.halted := rfl
@[simp] theorem setSysIqm_mpuf (v : Word) : (s.setSysIqm v).mpuf = s.mpuf := rfl
@[simp] theorem setSysIqm_sysIqm (v : Word) : (s.setSysIqm v).sysIqm = v := rfl
@[simp] theorem setSysIqm_mpuBase (v : Word) : (s.setSysIqm v).mpuBase = s.mpuBase := rfl
@[simp] theorem setSysIqm_mpuLimit (v : Word) : (s.setSysIqm v).mpuLimit = s.mpuLimit := rfl
@[simp] theorem setSysIqm_mpuCtrl (v : Word) : (s.setSysIqm v).mpuCtrl = s.mpuCtrl := rfl
@[simp] theorem setSysIqm_sysTicks (v : Word) : (s.setSysIqm v).sysTicks = s.sysTicks := rfl
@[simp] theorem setSysIqm_mem (v : Word) : (s.setSysIqm v).mem = s.mem := rfl
@[simp] theorem setSysIqm_arrivals (v : Word) : (s.setSysIqm v).arrivals = s.arrivals := rfl
@[simp] theorem setSysIqm_hostStop (v : Word) : (s.setSysIqm v).hostStop = s.hostStop := rfl
@[simp] theorem setSysIqm_supply (v : Word) : (s.setSysIqm v).supply = s.supply := rfl
@[simp] theorem setSysIqm_drawn (v : Word) : (s.setSysIqm v).drawn = s.drawn := rfl
@[simp] theorem setSysIqm_bus (v : Word) : (s.setSysIqm v).bus = s.bus := rfl
@[simp] theorem setSysIqm_cycles (v : Word) : (s.setSysIqm v).cycles = s.cycles := rfl
@[simp] theorem setSysIqm_cfg (v : Word) : (s.setSysIqm v).cfg = s.cfg := rfl
@[simp] theorem setSysIqm_reg (v : Word) (r : Reg) : (s.setSysIqm v).reg r = s.reg r := rfl

/-! ### setMpuBase -/

@[simp] theorem setMpuBase_regs (v : Word) : (s.setMpuBase v).regs = s.regs := rfl
@[simp] theorem setMpuBase_pc (v : Word) : (s.setMpuBase v).pc = s.pc := rfl
@[simp] theorem setMpuBase_sp (v : Word) : (s.setMpuBase v).sp = s.sp := rfl
@[simp] theorem setMpuBase_ex (v : Word) : (s.setMpuBase v).ex = s.ex := rfl
@[simp] theorem setMpuBase_fl (v : Word) : (s.setMpuBase v).fl = s.fl := rfl
@[simp] theorem setMpuBase_ia (v : Word) : (s.setMpuBase v).ia = s.ia := rfl
@[simp] theorem setMpuBase_iq (v : Word) : (s.setMpuBase v).iq = s.iq := rfl
@[simp] theorem setMpuBase_queue (v : Word) : (s.setMpuBase v).queue = s.queue := rfl
@[simp] theorem setMpuBase_halted (v : Word) : (s.setMpuBase v).halted = s.halted := rfl
@[simp] theorem setMpuBase_mpuf (v : Word) : (s.setMpuBase v).mpuf = s.mpuf := rfl
@[simp] theorem setMpuBase_sysIqm (v : Word) : (s.setMpuBase v).sysIqm = s.sysIqm := rfl
@[simp] theorem setMpuBase_mpuBase (v : Word) : (s.setMpuBase v).mpuBase = v := rfl
@[simp] theorem setMpuBase_mpuLimit (v : Word) : (s.setMpuBase v).mpuLimit = s.mpuLimit := rfl
@[simp] theorem setMpuBase_mpuCtrl (v : Word) : (s.setMpuBase v).mpuCtrl = s.mpuCtrl := rfl
@[simp] theorem setMpuBase_sysTicks (v : Word) : (s.setMpuBase v).sysTicks = s.sysTicks := rfl
@[simp] theorem setMpuBase_mem (v : Word) : (s.setMpuBase v).mem = s.mem := rfl
@[simp] theorem setMpuBase_arrivals (v : Word) : (s.setMpuBase v).arrivals = s.arrivals := rfl
@[simp] theorem setMpuBase_hostStop (v : Word) : (s.setMpuBase v).hostStop = s.hostStop := rfl
@[simp] theorem setMpuBase_supply (v : Word) : (s.setMpuBase v).supply = s.supply := rfl
@[simp] theorem setMpuBase_drawn (v : Word) : (s.setMpuBase v).drawn = s.drawn := rfl
@[simp] theorem setMpuBase_bus (v : Word) : (s.setMpuBase v).bus = s.bus := rfl
@[simp] theorem setMpuBase_cycles (v : Word) : (s.setMpuBase v).cycles = s.cycles := rfl
@[simp] theorem setMpuBase_cfg (v : Word) : (s.setMpuBase v).cfg = s.cfg := rfl
@[simp] theorem setMpuBase_reg (v : Word) (r : Reg) : (s.setMpuBase v).reg r = s.reg r := rfl

/-! ### setMpuLimit -/

@[simp] theorem setMpuLimit_regs (v : Word) : (s.setMpuLimit v).regs = s.regs := rfl
@[simp] theorem setMpuLimit_pc (v : Word) : (s.setMpuLimit v).pc = s.pc := rfl
@[simp] theorem setMpuLimit_sp (v : Word) : (s.setMpuLimit v).sp = s.sp := rfl
@[simp] theorem setMpuLimit_ex (v : Word) : (s.setMpuLimit v).ex = s.ex := rfl
@[simp] theorem setMpuLimit_fl (v : Word) : (s.setMpuLimit v).fl = s.fl := rfl
@[simp] theorem setMpuLimit_ia (v : Word) : (s.setMpuLimit v).ia = s.ia := rfl
@[simp] theorem setMpuLimit_iq (v : Word) : (s.setMpuLimit v).iq = s.iq := rfl
@[simp] theorem setMpuLimit_queue (v : Word) : (s.setMpuLimit v).queue = s.queue := rfl
@[simp] theorem setMpuLimit_halted (v : Word) : (s.setMpuLimit v).halted = s.halted := rfl
@[simp] theorem setMpuLimit_mpuf (v : Word) : (s.setMpuLimit v).mpuf = s.mpuf := rfl
@[simp] theorem setMpuLimit_sysIqm (v : Word) : (s.setMpuLimit v).sysIqm = s.sysIqm := rfl
@[simp] theorem setMpuLimit_mpuBase (v : Word) : (s.setMpuLimit v).mpuBase = s.mpuBase := rfl
@[simp] theorem setMpuLimit_mpuLimit (v : Word) : (s.setMpuLimit v).mpuLimit = v := rfl
@[simp] theorem setMpuLimit_mpuCtrl (v : Word) : (s.setMpuLimit v).mpuCtrl = s.mpuCtrl := rfl
@[simp] theorem setMpuLimit_sysTicks (v : Word) : (s.setMpuLimit v).sysTicks = s.sysTicks := rfl
@[simp] theorem setMpuLimit_mem (v : Word) : (s.setMpuLimit v).mem = s.mem := rfl
@[simp] theorem setMpuLimit_arrivals (v : Word) : (s.setMpuLimit v).arrivals = s.arrivals := rfl
@[simp] theorem setMpuLimit_hostStop (v : Word) : (s.setMpuLimit v).hostStop = s.hostStop := rfl
@[simp] theorem setMpuLimit_supply (v : Word) : (s.setMpuLimit v).supply = s.supply := rfl
@[simp] theorem setMpuLimit_drawn (v : Word) : (s.setMpuLimit v).drawn = s.drawn := rfl
@[simp] theorem setMpuLimit_bus (v : Word) : (s.setMpuLimit v).bus = s.bus := rfl
@[simp] theorem setMpuLimit_cycles (v : Word) : (s.setMpuLimit v).cycles = s.cycles := rfl
@[simp] theorem setMpuLimit_cfg (v : Word) : (s.setMpuLimit v).cfg = s.cfg := rfl
@[simp] theorem setMpuLimit_reg (v : Word) (r : Reg) : (s.setMpuLimit v).reg r = s.reg r := rfl

/-! ### setMpuCtrl -/

@[simp] theorem setMpuCtrl_regs (v : Word) : (s.setMpuCtrl v).regs = s.regs := rfl
@[simp] theorem setMpuCtrl_pc (v : Word) : (s.setMpuCtrl v).pc = s.pc := rfl
@[simp] theorem setMpuCtrl_sp (v : Word) : (s.setMpuCtrl v).sp = s.sp := rfl
@[simp] theorem setMpuCtrl_ex (v : Word) : (s.setMpuCtrl v).ex = s.ex := rfl
@[simp] theorem setMpuCtrl_fl (v : Word) : (s.setMpuCtrl v).fl = s.fl := rfl
@[simp] theorem setMpuCtrl_ia (v : Word) : (s.setMpuCtrl v).ia = s.ia := rfl
@[simp] theorem setMpuCtrl_iq (v : Word) : (s.setMpuCtrl v).iq = s.iq := rfl
@[simp] theorem setMpuCtrl_queue (v : Word) : (s.setMpuCtrl v).queue = s.queue := rfl
@[simp] theorem setMpuCtrl_halted (v : Word) : (s.setMpuCtrl v).halted = s.halted := rfl
@[simp] theorem setMpuCtrl_mpuf (v : Word) : (s.setMpuCtrl v).mpuf = s.mpuf := rfl
@[simp] theorem setMpuCtrl_sysIqm (v : Word) : (s.setMpuCtrl v).sysIqm = s.sysIqm := rfl
@[simp] theorem setMpuCtrl_mpuBase (v : Word) : (s.setMpuCtrl v).mpuBase = s.mpuBase := rfl
@[simp] theorem setMpuCtrl_mpuLimit (v : Word) : (s.setMpuCtrl v).mpuLimit = s.mpuLimit := rfl
@[simp] theorem setMpuCtrl_mpuCtrl (v : Word) : (s.setMpuCtrl v).mpuCtrl = v := rfl
@[simp] theorem setMpuCtrl_sysTicks (v : Word) : (s.setMpuCtrl v).sysTicks = s.sysTicks := rfl
@[simp] theorem setMpuCtrl_mem (v : Word) : (s.setMpuCtrl v).mem = s.mem := rfl
@[simp] theorem setMpuCtrl_arrivals (v : Word) : (s.setMpuCtrl v).arrivals = s.arrivals := rfl
@[simp] theorem setMpuCtrl_hostStop (v : Word) : (s.setMpuCtrl v).hostStop = s.hostStop := rfl
@[simp] theorem setMpuCtrl_supply (v : Word) : (s.setMpuCtrl v).supply = s.supply := rfl
@[simp] theorem setMpuCtrl_drawn (v : Word) : (s.setMpuCtrl v).drawn = s.drawn := rfl
@[simp] theorem setMpuCtrl_bus (v : Word) : (s.setMpuCtrl v).bus = s.bus := rfl
@[simp] theorem setMpuCtrl_cycles (v : Word) : (s.setMpuCtrl v).cycles = s.cycles := rfl
@[simp] theorem setMpuCtrl_cfg (v : Word) : (s.setMpuCtrl v).cfg = s.cfg := rfl
@[simp] theorem setMpuCtrl_reg (v : Word) (r : Reg) : (s.setMpuCtrl v).reg r = s.reg r := rfl

/-! ### setSysTicks -/

@[simp] theorem setSysTicks_regs (v : Word) : (s.setSysTicks v).regs = s.regs := rfl
@[simp] theorem setSysTicks_pc (v : Word) : (s.setSysTicks v).pc = s.pc := rfl
@[simp] theorem setSysTicks_sp (v : Word) : (s.setSysTicks v).sp = s.sp := rfl
@[simp] theorem setSysTicks_ex (v : Word) : (s.setSysTicks v).ex = s.ex := rfl
@[simp] theorem setSysTicks_fl (v : Word) : (s.setSysTicks v).fl = s.fl := rfl
@[simp] theorem setSysTicks_ia (v : Word) : (s.setSysTicks v).ia = s.ia := rfl
@[simp] theorem setSysTicks_iq (v : Word) : (s.setSysTicks v).iq = s.iq := rfl
@[simp] theorem setSysTicks_queue (v : Word) : (s.setSysTicks v).queue = s.queue := rfl
@[simp] theorem setSysTicks_halted (v : Word) : (s.setSysTicks v).halted = s.halted := rfl
@[simp] theorem setSysTicks_mpuf (v : Word) : (s.setSysTicks v).mpuf = s.mpuf := rfl
@[simp] theorem setSysTicks_sysIqm (v : Word) : (s.setSysTicks v).sysIqm = s.sysIqm := rfl
@[simp] theorem setSysTicks_mpuBase (v : Word) : (s.setSysTicks v).mpuBase = s.mpuBase := rfl
@[simp] theorem setSysTicks_mpuLimit (v : Word) : (s.setSysTicks v).mpuLimit = s.mpuLimit := rfl
@[simp] theorem setSysTicks_mpuCtrl (v : Word) : (s.setSysTicks v).mpuCtrl = s.mpuCtrl := rfl
@[simp] theorem setSysTicks_sysTicks (v : Word) : (s.setSysTicks v).sysTicks = v := rfl
@[simp] theorem setSysTicks_mem (v : Word) : (s.setSysTicks v).mem = s.mem := rfl
@[simp] theorem setSysTicks_arrivals (v : Word) : (s.setSysTicks v).arrivals = s.arrivals := rfl
@[simp] theorem setSysTicks_hostStop (v : Word) : (s.setSysTicks v).hostStop = s.hostStop := rfl
@[simp] theorem setSysTicks_supply (v : Word) : (s.setSysTicks v).supply = s.supply := rfl
@[simp] theorem setSysTicks_drawn (v : Word) : (s.setSysTicks v).drawn = s.drawn := rfl
@[simp] theorem setSysTicks_bus (v : Word) : (s.setSysTicks v).bus = s.bus := rfl
@[simp] theorem setSysTicks_cycles (v : Word) : (s.setSysTicks v).cycles = s.cycles := rfl
@[simp] theorem setSysTicks_cfg (v : Word) : (s.setSysTicks v).cfg = s.cfg := rfl
@[simp] theorem setSysTicks_reg (v : Word) (r : Reg) : (s.setSysTicks v).reg r = s.reg r := rfl

/-! ### setMem -/

@[simp] theorem setMem_regs (v : Memory) : (s.setMem v).regs = s.regs := rfl
@[simp] theorem setMem_pc (v : Memory) : (s.setMem v).pc = s.pc := rfl
@[simp] theorem setMem_sp (v : Memory) : (s.setMem v).sp = s.sp := rfl
@[simp] theorem setMem_ex (v : Memory) : (s.setMem v).ex = s.ex := rfl
@[simp] theorem setMem_fl (v : Memory) : (s.setMem v).fl = s.fl := rfl
@[simp] theorem setMem_ia (v : Memory) : (s.setMem v).ia = s.ia := rfl
@[simp] theorem setMem_iq (v : Memory) : (s.setMem v).iq = s.iq := rfl
@[simp] theorem setMem_queue (v : Memory) : (s.setMem v).queue = s.queue := rfl
@[simp] theorem setMem_halted (v : Memory) : (s.setMem v).halted = s.halted := rfl
@[simp] theorem setMem_mpuf (v : Memory) : (s.setMem v).mpuf = s.mpuf := rfl
@[simp] theorem setMem_sysIqm (v : Memory) : (s.setMem v).sysIqm = s.sysIqm := rfl
@[simp] theorem setMem_mpuBase (v : Memory) : (s.setMem v).mpuBase = s.mpuBase := rfl
@[simp] theorem setMem_mpuLimit (v : Memory) : (s.setMem v).mpuLimit = s.mpuLimit := rfl
@[simp] theorem setMem_mpuCtrl (v : Memory) : (s.setMem v).mpuCtrl = s.mpuCtrl := rfl
@[simp] theorem setMem_sysTicks (v : Memory) : (s.setMem v).sysTicks = s.sysTicks := rfl
@[simp] theorem setMem_mem (v : Memory) : (s.setMem v).mem = v := rfl
@[simp] theorem setMem_arrivals (v : Memory) : (s.setMem v).arrivals = s.arrivals := rfl
@[simp] theorem setMem_hostStop (v : Memory) : (s.setMem v).hostStop = s.hostStop := rfl
@[simp] theorem setMem_supply (v : Memory) : (s.setMem v).supply = s.supply := rfl
@[simp] theorem setMem_drawn (v : Memory) : (s.setMem v).drawn = s.drawn := rfl
@[simp] theorem setMem_bus (v : Memory) : (s.setMem v).bus = s.bus := rfl
@[simp] theorem setMem_cycles (v : Memory) : (s.setMem v).cycles = s.cycles := rfl
@[simp] theorem setMem_cfg (v : Memory) : (s.setMem v).cfg = s.cfg := rfl
@[simp] theorem setMem_reg (v : Memory) (r : Reg) : (s.setMem v).reg r = s.reg r := rfl

/-! ### setArrivals -/

@[simp] theorem setArrivals_regs (v : List (List Word)) : (s.setArrivals v).regs = s.regs := rfl
@[simp] theorem setArrivals_pc (v : List (List Word)) : (s.setArrivals v).pc = s.pc := rfl
@[simp] theorem setArrivals_sp (v : List (List Word)) : (s.setArrivals v).sp = s.sp := rfl
@[simp] theorem setArrivals_ex (v : List (List Word)) : (s.setArrivals v).ex = s.ex := rfl
@[simp] theorem setArrivals_fl (v : List (List Word)) : (s.setArrivals v).fl = s.fl := rfl
@[simp] theorem setArrivals_ia (v : List (List Word)) : (s.setArrivals v).ia = s.ia := rfl
@[simp] theorem setArrivals_iq (v : List (List Word)) : (s.setArrivals v).iq = s.iq := rfl
@[simp] theorem setArrivals_queue (v : List (List Word)) : (s.setArrivals v).queue = s.queue := rfl
@[simp] theorem setArrivals_halted (v : List (List Word)) : (s.setArrivals v).halted = s.halted := rfl
@[simp] theorem setArrivals_mpuf (v : List (List Word)) : (s.setArrivals v).mpuf = s.mpuf := rfl
@[simp] theorem setArrivals_sysIqm (v : List (List Word)) : (s.setArrivals v).sysIqm = s.sysIqm := rfl
@[simp] theorem setArrivals_mpuBase (v : List (List Word)) : (s.setArrivals v).mpuBase = s.mpuBase := rfl
@[simp] theorem setArrivals_mpuLimit (v : List (List Word)) : (s.setArrivals v).mpuLimit = s.mpuLimit := rfl
@[simp] theorem setArrivals_mpuCtrl (v : List (List Word)) : (s.setArrivals v).mpuCtrl = s.mpuCtrl := rfl
@[simp] theorem setArrivals_sysTicks (v : List (List Word)) : (s.setArrivals v).sysTicks = s.sysTicks := rfl
@[simp] theorem setArrivals_mem (v : List (List Word)) : (s.setArrivals v).mem = s.mem := rfl
@[simp] theorem setArrivals_arrivals (v : List (List Word)) : (s.setArrivals v).arrivals = v := rfl
@[simp] theorem setArrivals_hostStop (v : List (List Word)) : (s.setArrivals v).hostStop = s.hostStop := rfl
@[simp] theorem setArrivals_supply (v : List (List Word)) : (s.setArrivals v).supply = s.supply := rfl
@[simp] theorem setArrivals_drawn (v : List (List Word)) : (s.setArrivals v).drawn = s.drawn := rfl
@[simp] theorem setArrivals_bus (v : List (List Word)) : (s.setArrivals v).bus = s.bus := rfl
@[simp] theorem setArrivals_cycles (v : List (List Word)) : (s.setArrivals v).cycles = s.cycles := rfl
@[simp] theorem setArrivals_cfg (v : List (List Word)) : (s.setArrivals v).cfg = s.cfg := rfl
@[simp] theorem setArrivals_reg (v : List (List Word)) (r : Reg) : (s.setArrivals v).reg r = s.reg r := rfl

/-! ### setHostStop -/

@[simp] theorem setHostStop_regs (v : HostStop) : (s.setHostStop v).regs = s.regs := rfl
@[simp] theorem setHostStop_pc (v : HostStop) : (s.setHostStop v).pc = s.pc := rfl
@[simp] theorem setHostStop_sp (v : HostStop) : (s.setHostStop v).sp = s.sp := rfl
@[simp] theorem setHostStop_ex (v : HostStop) : (s.setHostStop v).ex = s.ex := rfl
@[simp] theorem setHostStop_fl (v : HostStop) : (s.setHostStop v).fl = s.fl := rfl
@[simp] theorem setHostStop_ia (v : HostStop) : (s.setHostStop v).ia = s.ia := rfl
@[simp] theorem setHostStop_iq (v : HostStop) : (s.setHostStop v).iq = s.iq := rfl
@[simp] theorem setHostStop_queue (v : HostStop) : (s.setHostStop v).queue = s.queue := rfl
@[simp] theorem setHostStop_halted (v : HostStop) : (s.setHostStop v).halted = s.halted := rfl
@[simp] theorem setHostStop_mpuf (v : HostStop) : (s.setHostStop v).mpuf = s.mpuf := rfl
@[simp] theorem setHostStop_sysIqm (v : HostStop) : (s.setHostStop v).sysIqm = s.sysIqm := rfl
@[simp] theorem setHostStop_mpuBase (v : HostStop) : (s.setHostStop v).mpuBase = s.mpuBase := rfl
@[simp] theorem setHostStop_mpuLimit (v : HostStop) : (s.setHostStop v).mpuLimit = s.mpuLimit := rfl
@[simp] theorem setHostStop_mpuCtrl (v : HostStop) : (s.setHostStop v).mpuCtrl = s.mpuCtrl := rfl
@[simp] theorem setHostStop_sysTicks (v : HostStop) : (s.setHostStop v).sysTicks = s.sysTicks := rfl
@[simp] theorem setHostStop_mem (v : HostStop) : (s.setHostStop v).mem = s.mem := rfl
@[simp] theorem setHostStop_arrivals (v : HostStop) : (s.setHostStop v).arrivals = s.arrivals := rfl
@[simp] theorem setHostStop_hostStop (v : HostStop) : (s.setHostStop v).hostStop = v := rfl
@[simp] theorem setHostStop_supply (v : HostStop) : (s.setHostStop v).supply = s.supply := rfl
@[simp] theorem setHostStop_drawn (v : HostStop) : (s.setHostStop v).drawn = s.drawn := rfl
@[simp] theorem setHostStop_bus (v : HostStop) : (s.setHostStop v).bus = s.bus := rfl
@[simp] theorem setHostStop_cycles (v : HostStop) : (s.setHostStop v).cycles = s.cycles := rfl
@[simp] theorem setHostStop_cfg (v : HostStop) : (s.setHostStop v).cfg = s.cfg := rfl
@[simp] theorem setHostStop_reg (v : HostStop) (r : Reg) : (s.setHostStop v).reg r = s.reg r := rfl

/-! ### setSupply -/

@[simp] theorem setSupply_regs (v : List Word) : (s.setSupply v).regs = s.regs := rfl
@[simp] theorem setSupply_pc (v : List Word) : (s.setSupply v).pc = s.pc := rfl
@[simp] theorem setSupply_sp (v : List Word) : (s.setSupply v).sp = s.sp := rfl
@[simp] theorem setSupply_ex (v : List Word) : (s.setSupply v).ex = s.ex := rfl
@[simp] theorem setSupply_fl (v : List Word) : (s.setSupply v).fl = s.fl := rfl
@[simp] theorem setSupply_ia (v : List Word) : (s.setSupply v).ia = s.ia := rfl
@[simp] theorem setSupply_iq (v : List Word) : (s.setSupply v).iq = s.iq := rfl
@[simp] theorem setSupply_queue (v : List Word) : (s.setSupply v).queue = s.queue := rfl
@[simp] theorem setSupply_halted (v : List Word) : (s.setSupply v).halted = s.halted := rfl
@[simp] theorem setSupply_mpuf (v : List Word) : (s.setSupply v).mpuf = s.mpuf := rfl
@[simp] theorem setSupply_sysIqm (v : List Word) : (s.setSupply v).sysIqm = s.sysIqm := rfl
@[simp] theorem setSupply_mpuBase (v : List Word) : (s.setSupply v).mpuBase = s.mpuBase := rfl
@[simp] theorem setSupply_mpuLimit (v : List Word) : (s.setSupply v).mpuLimit = s.mpuLimit := rfl
@[simp] theorem setSupply_mpuCtrl (v : List Word) : (s.setSupply v).mpuCtrl = s.mpuCtrl := rfl
@[simp] theorem setSupply_sysTicks (v : List Word) : (s.setSupply v).sysTicks = s.sysTicks := rfl
@[simp] theorem setSupply_mem (v : List Word) : (s.setSupply v).mem = s.mem := rfl
@[simp] theorem setSupply_arrivals (v : List Word) : (s.setSupply v).arrivals = s.arrivals := rfl
@[simp] theorem setSupply_hostStop (v : List Word) : (s.setSupply v).hostStop = s.hostStop := rfl
@[simp] theorem setSupply_supply (v : List Word) : (s.setSupply v).supply = v := rfl
@[simp] theorem setSupply_drawn (v : List Word) : (s.setSupply v).drawn = s.drawn := rfl
@[simp] theorem setSupply_bus (v : List Word) : (s.setSupply v).bus = s.bus := rfl
@[simp] theorem setSupply_cycles (v : List Word) : (s.setSupply v).cycles = s.cycles := rfl
@[simp] theorem setSupply_cfg (v : List Word) : (s.setSupply v).cfg = s.cfg := rfl
@[simp] theorem setSupply_reg (v : List Word) (r : Reg) : (s.setSupply v).reg r = s.reg r := rfl

/-! ### setDrawn -/

@[simp] theorem setDrawn_regs (v : Nat) : (s.setDrawn v).regs = s.regs := rfl
@[simp] theorem setDrawn_pc (v : Nat) : (s.setDrawn v).pc = s.pc := rfl
@[simp] theorem setDrawn_sp (v : Nat) : (s.setDrawn v).sp = s.sp := rfl
@[simp] theorem setDrawn_ex (v : Nat) : (s.setDrawn v).ex = s.ex := rfl
@[simp] theorem setDrawn_fl (v : Nat) : (s.setDrawn v).fl = s.fl := rfl
@[simp] theorem setDrawn_ia (v : Nat) : (s.setDrawn v).ia = s.ia := rfl
@[simp] theorem setDrawn_iq (v : Nat) : (s.setDrawn v).iq = s.iq := rfl
@[simp] theorem setDrawn_queue (v : Nat) : (s.setDrawn v).queue = s.queue := rfl
@[simp] theorem setDrawn_halted (v : Nat) : (s.setDrawn v).halted = s.halted := rfl
@[simp] theorem setDrawn_mpuf (v : Nat) : (s.setDrawn v).mpuf = s.mpuf := rfl
@[simp] theorem setDrawn_sysIqm (v : Nat) : (s.setDrawn v).sysIqm = s.sysIqm := rfl
@[simp] theorem setDrawn_mpuBase (v : Nat) : (s.setDrawn v).mpuBase = s.mpuBase := rfl
@[simp] theorem setDrawn_mpuLimit (v : Nat) : (s.setDrawn v).mpuLimit = s.mpuLimit := rfl
@[simp] theorem setDrawn_mpuCtrl (v : Nat) : (s.setDrawn v).mpuCtrl = s.mpuCtrl := rfl
@[simp] theorem setDrawn_sysTicks (v : Nat) : (s.setDrawn v).sysTicks = s.sysTicks := rfl
@[simp] theorem setDrawn_mem (v : Nat) : (s.setDrawn v).mem = s.mem := rfl
@[simp] theorem setDrawn_arrivals (v : Nat) : (s.setDrawn v).arrivals = s.arrivals := rfl
@[simp] theorem setDrawn_hostStop (v : Nat) : (s.setDrawn v).hostStop = s.hostStop := rfl
@[simp] theorem setDrawn_supply (v : Nat) : (s.setDrawn v).supply = s.supply := rfl
@[simp] theorem setDrawn_drawn (v : Nat) : (s.setDrawn v).drawn = v := rfl
@[simp] theorem setDrawn_bus (v : Nat) : (s.setDrawn v).bus = s.bus := rfl
@[simp] theorem setDrawn_cycles (v : Nat) : (s.setDrawn v).cycles = s.cycles := rfl
@[simp] theorem setDrawn_cfg (v : Nat) : (s.setDrawn v).cfg = s.cfg := rfl
@[simp] theorem setDrawn_reg (v : Nat) (r : Reg) : (s.setDrawn v).reg r = s.reg r := rfl

/-! ### emit -/

@[simp] theorem emit_regs (v : BusEvent) : (s.emit v).regs = s.regs := rfl
@[simp] theorem emit_pc (v : BusEvent) : (s.emit v).pc = s.pc := rfl
@[simp] theorem emit_sp (v : BusEvent) : (s.emit v).sp = s.sp := rfl
@[simp] theorem emit_ex (v : BusEvent) : (s.emit v).ex = s.ex := rfl
@[simp] theorem emit_fl (v : BusEvent) : (s.emit v).fl = s.fl := rfl
@[simp] theorem emit_ia (v : BusEvent) : (s.emit v).ia = s.ia := rfl
@[simp] theorem emit_iq (v : BusEvent) : (s.emit v).iq = s.iq := rfl
@[simp] theorem emit_queue (v : BusEvent) : (s.emit v).queue = s.queue := rfl
@[simp] theorem emit_halted (v : BusEvent) : (s.emit v).halted = s.halted := rfl
@[simp] theorem emit_mpuf (v : BusEvent) : (s.emit v).mpuf = s.mpuf := rfl
@[simp] theorem emit_sysIqm (v : BusEvent) : (s.emit v).sysIqm = s.sysIqm := rfl
@[simp] theorem emit_mpuBase (v : BusEvent) : (s.emit v).mpuBase = s.mpuBase := rfl
@[simp] theorem emit_mpuLimit (v : BusEvent) : (s.emit v).mpuLimit = s.mpuLimit := rfl
@[simp] theorem emit_mpuCtrl (v : BusEvent) : (s.emit v).mpuCtrl = s.mpuCtrl := rfl
@[simp] theorem emit_sysTicks (v : BusEvent) : (s.emit v).sysTicks = s.sysTicks := rfl
@[simp] theorem emit_mem (v : BusEvent) : (s.emit v).mem = s.mem := rfl
@[simp] theorem emit_arrivals (v : BusEvent) : (s.emit v).arrivals = s.arrivals := rfl
@[simp] theorem emit_hostStop (v : BusEvent) : (s.emit v).hostStop = s.hostStop := rfl
@[simp] theorem emit_supply (v : BusEvent) : (s.emit v).supply = s.supply := rfl
@[simp] theorem emit_drawn (v : BusEvent) : (s.emit v).drawn = s.drawn := rfl
@[simp] theorem emit_bus (v : BusEvent) : (s.emit v).bus = v :: s.bus := rfl
@[simp] theorem emit_cycles (v : BusEvent) : (s.emit v).cycles = s.cycles := rfl
@[simp] theorem emit_cfg (v : BusEvent) : (s.emit v).cfg = s.cfg := rfl
@[simp] theorem emit_reg (v : BusEvent) (r : Reg) : (s.emit v).reg r = s.reg r := rfl

/-! ### charge -/

@[simp] theorem charge_regs (v : Nat) : (s.charge v).regs = s.regs := rfl
@[simp] theorem charge_pc (v : Nat) : (s.charge v).pc = s.pc := rfl
@[simp] theorem charge_sp (v : Nat) : (s.charge v).sp = s.sp := rfl
@[simp] theorem charge_ex (v : Nat) : (s.charge v).ex = s.ex := rfl
@[simp] theorem charge_fl (v : Nat) : (s.charge v).fl = s.fl := rfl
@[simp] theorem charge_ia (v : Nat) : (s.charge v).ia = s.ia := rfl
@[simp] theorem charge_iq (v : Nat) : (s.charge v).iq = s.iq := rfl
@[simp] theorem charge_queue (v : Nat) : (s.charge v).queue = s.queue := rfl
@[simp] theorem charge_halted (v : Nat) : (s.charge v).halted = s.halted := rfl
@[simp] theorem charge_mpuf (v : Nat) : (s.charge v).mpuf = s.mpuf := rfl
@[simp] theorem charge_sysIqm (v : Nat) : (s.charge v).sysIqm = s.sysIqm := rfl
@[simp] theorem charge_mpuBase (v : Nat) : (s.charge v).mpuBase = s.mpuBase := rfl
@[simp] theorem charge_mpuLimit (v : Nat) : (s.charge v).mpuLimit = s.mpuLimit := rfl
@[simp] theorem charge_mpuCtrl (v : Nat) : (s.charge v).mpuCtrl = s.mpuCtrl := rfl
@[simp] theorem charge_sysTicks (v : Nat) : (s.charge v).sysTicks = s.sysTicks := rfl
@[simp] theorem charge_mem (v : Nat) : (s.charge v).mem = s.mem := rfl
@[simp] theorem charge_arrivals (v : Nat) : (s.charge v).arrivals = s.arrivals := rfl
@[simp] theorem charge_hostStop (v : Nat) : (s.charge v).hostStop = s.hostStop := rfl
@[simp] theorem charge_supply (v : Nat) : (s.charge v).supply = s.supply := rfl
@[simp] theorem charge_drawn (v : Nat) : (s.charge v).drawn = s.drawn := rfl
@[simp] theorem charge_bus (v : Nat) : (s.charge v).bus = s.bus := rfl
@[simp] theorem charge_cycles (v : Nat) : (s.charge v).cycles = s.cycles + v := rfl
@[simp] theorem charge_cfg (v : Nat) : (s.charge v).cfg = s.cfg := rfl
@[simp] theorem charge_reg (v : Nat) (r : Reg) : (s.charge v).reg r = s.reg r := rfl

end Sys2Proof.Machine.State
end

