-- ==== Sys2Proof/Laws/Ops.lean ====
section
/-! SUPPORT. What each shared operation over the state can do, said once. -/

namespace Sys2Proof.Machine

/-! ### What a read may change -/

theorem EnvStep.refl (s : State) : EnvStep s s := ⟨s.supply, s.drawn, s.bus, s.sysTicks, s.mpuf, rfl⟩

theorem EnvStep.trans {s t u : State} (h : EnvStep s t) (g : EnvStep t u) : EnvStep s u := by
  obtain ⟨_, _, _, _, _, rfl⟩ := h
  obtain ⟨a, b, c, d, e, rfl⟩ := g
  exact ⟨a, b, c, d, e, rfl⟩

theorem EnvStep.regs {s t : State} (h : EnvStep s t) : t.regs = s.regs := by obtain ⟨_, _, _, _, _, rfl⟩ := h; rfl

theorem EnvStep.pc {s t : State} (h : EnvStep s t) : t.pc = s.pc := by obtain ⟨_, _, _, _, _, rfl⟩ := h; rfl

theorem EnvStep.sp {s t : State} (h : EnvStep s t) : t.sp = s.sp := by obtain ⟨_, _, _, _, _, rfl⟩ := h; rfl

theorem EnvStep.ex {s t : State} (h : EnvStep s t) : t.ex = s.ex := by obtain ⟨_, _, _, _, _, rfl⟩ := h; rfl

theorem EnvStep.fl {s t : State} (h : EnvStep s t) : t.fl = s.fl := by obtain ⟨_, _, _, _, _, rfl⟩ := h; rfl

theorem EnvStep.ia {s t : State} (h : EnvStep s t) : t.ia = s.ia := by obtain ⟨_, _, _, _, _, rfl⟩ := h; rfl

theorem EnvStep.iq {s t : State} (h : EnvStep s t) : t.iq = s.iq := by obtain ⟨_, _, _, _, _, rfl⟩ := h; rfl

theorem EnvStep.queue {s t : State} (h : EnvStep s t) : t.queue = s.queue := by obtain ⟨_, _, _, _, _, rfl⟩ := h; rfl

theorem EnvStep.halted {s t : State} (h : EnvStep s t) : t.halted = s.halted := by obtain ⟨_, _, _, _, _, rfl⟩ := h; rfl

theorem EnvStep.sysIqm {s t : State} (h : EnvStep s t) : t.sysIqm = s.sysIqm := by obtain ⟨_, _, _, _, _, rfl⟩ := h; rfl

theorem EnvStep.mpuBase {s t : State} (h : EnvStep s t) : t.mpuBase = s.mpuBase := by obtain ⟨_, _, _, _, _, rfl⟩ := h; rfl

theorem EnvStep.mpuLimit {s t : State} (h : EnvStep s t) : t.mpuLimit = s.mpuLimit := by obtain ⟨_, _, _, _, _, rfl⟩ := h; rfl

theorem EnvStep.mpuCtrl {s t : State} (h : EnvStep s t) : t.mpuCtrl = s.mpuCtrl := by obtain ⟨_, _, _, _, _, rfl⟩ := h; rfl

theorem EnvStep.mem {s t : State} (h : EnvStep s t) : t.mem = s.mem := by obtain ⟨_, _, _, _, _, rfl⟩ := h; rfl

theorem EnvStep.arrivals {s t : State} (h : EnvStep s t) : t.arrivals = s.arrivals := by obtain ⟨_, _, _, _, _, rfl⟩ := h; rfl

theorem EnvStep.hostStop {s t : State} (h : EnvStep s t) : t.hostStop = s.hostStop := by obtain ⟨_, _, _, _, _, rfl⟩ := h; rfl

theorem EnvStep.cycles {s t : State} (h : EnvStep s t) : t.cycles = s.cycles := by obtain ⟨_, _, _, _, _, rfl⟩ := h; rfl

theorem EnvStep.cfg {s t : State} (h : EnvStep s t) : t.cfg = s.cfg := by obtain ⟨_, _, _, _, _, rfl⟩ := h; rfl

theorem EnvStep.reg {s t : State} (h : EnvStep s t) (r : Reg) : t.reg r = s.reg r := by
  obtain ⟨_, _, _, _, _, rfl⟩ := h; rfl

theorem draw_envStep (s : State) : EnvStep s (draw s).2 := by
  unfold draw
  split
  · exact ⟨_, s.drawn, s.bus, s.sysTicks, s.mpuf, rfl⟩
  · exact ⟨s.supply, _, s.bus, s.sysTicks, s.mpuf, rfl⟩

theorem readTicks_envStep (s : State) : EnvStep s (readTicks s).2 := by
  refine EnvStep.trans (draw_envStep s) ?_
  exact ⟨(draw s).2.supply, (draw s).2.drawn, (draw s).2.bus, _, (draw s).2.mpuf, rfl⟩

theorem emit_envStep (s : State) (e : BusEvent) : EnvStep s (s.emit e) :=
  ⟨s.supply, s.drawn, _, s.sysTicks, s.mpuf, rfl⟩

theorem setMpuf_envStep (s : State) (v : Bool) : EnvStep s (s.setMpuf v) :=
  ⟨s.supply, s.drawn, s.bus, s.sysTicks, v, rfl⟩

theorem scbRead_envStep (off : Nat) (s : State) : EnvStep s (scbRead off s).2 := by
  unfold scbRead
  split <;> first | exact EnvStep.refl s | exact readTicks_envStep s | exact draw_envStep s

theorem deviceRead_envStep (d : Device) (off : Nat) (s : State) : EnvStep s (deviceRead d off s).2 := by
  unfold deviceRead
  split <;> first | exact EnvStep.refl s | exact draw_envStep s

theorem devRead_envStep (slot off : Nat) (s : State) : EnvStep s (devRead slot off s).2 := by
  unfold devRead
  split
  · exact scbRead_envStep off s
  · split
    · exact EnvStep.trans (emit_envStep s _) (deviceRead_envStep _ off _)
    · exact emit_envStep s _

theorem physRead_envStep (addr : Word) (s : State) : EnvStep s (physRead addr s).2 := by
  unfold physRead
  split
  · exact devRead_envStep _ _ s
  · split <;> exact EnvStep.refl s

theorem noteViolation_envStep (s : State) : EnvStep s (noteViolation s) := by
  unfold noteViolation
  split
  · exact setMpuf_envStep s true
  · exact EnvStep.refl s

/-- A read changes nothing but what a read may change. -/
theorem memRead_envStep (addr : Word) (s : State) : EnvStep s (memRead addr s).2 := by
  unfold memRead
  split
  · exact noteViolation_envStep s
  · exact physRead_envStep addr s

/-! ### What a read yields -/

theorem ram_words_le (r : RamTier) : r.words ≤ 0xE000 := by cases r <;> decide

theorem plainRam.lt {addr : Word} {k : Access} {s : State} (h : plainRam addr k s) : addr.toNat < 0xE000 :=
  Nat.lt_of_lt_of_le h.1 (ram_words_le _)

/-- A read of plain RAM yields the word and changes nothing. -/
theorem memRead_plain {addr : Word} {s : State} (h : plainRam addr .read s) :
    memRead addr s = (s.mem.readWord addr.toNat, s) := by
  unfold memRead physRead
  have h1 := h.lt
  rw [h.2]
  simp only [Bool.false_eq_true, if_false]
  rw [if_neg (by omega), if_pos h.1]

/-- A violating read yields 0x0000. -/
theorem memRead_violation {addr : Word} {s : State} (h : mpuViolation addr .read s = true) :
    memRead addr s = (0x0000#16, noteViolation s) := by
  unfold memRead
  rw [h]
  rfl

/-- A write to plain RAM writes the word and changes nothing else. -/
theorem memWrite_plain {addr v : Word} {s : State} (h : plainRam addr .write s) :
    memWrite addr v s = s.setMem (s.mem.writeWord addr.toNat v) := by
  unfold memWrite physWrite
  have h1 := h.lt
  rw [h.2]
  simp only [Bool.false_eq_true, if_false]
  rw [if_neg (by omega), if_pos h.1]

/-- A violating write writes nothing. -/
theorem memWrite_violation {addr v : Word} {s : State} (h : mpuViolation addr .write s = true) :
    memWrite addr v s = noteViolation s := by
  unfold memWrite
  rw [h]
  rfl

/-! ### What a write may change -/

theorem slotOf_eq_zero {addr : Word} (h : 0xE000 ≤ addr.toNat) (h0 : slotOf addr = 0) :
    addr.toNat = 0xE000 + offsetOf addr := by
  unfold slotOf at h0
  unfold offsetOf
  have : addr.toNat - 0xE000 < 256 := by omega
  omega

/-- What a store to a word address may change, and what it may not. -/
structure StoreStep (addr : Word) (s t : State) : Prop where
  regs : t.regs = s.regs
  pc : t.pc = s.pc
  sp : t.sp = s.sp
  ex : t.ex = s.ex
  fl : t.fl = s.fl
  sysTicks : t.sysTicks = s.sysTicks
  supply : t.supply = s.supply
  drawn : t.drawn = s.drawn
  cycles : t.cycles = s.cycles
  system : SystemKept s t
  control : ControlKept [addr] s t
  memory : MemoryKept [addr] s t
  wf : s.mem.wf = true → t.mem.wf = true
  installed : (∀ c ∈ s.mem, c.1 < 2 * s.cfg.ram.words) → ∀ c ∈ t.mem, c.1 < 2 * s.cfg.ram.words

theorem StoreStep.of_same {addr : Word} {s t : State} (h : EnvStep s t) (hs : t.supply = s.supply)
    (hd : t.drawn = s.drawn) (ht : t.sysTicks = s.sysTicks) : StoreStep addr s t where
  regs := h.regs
  pc := h.pc
  sp := h.sp
  ex := h.ex
  fl := h.fl
  sysTicks := ht
  supply := hs
  drawn := hd
  cycles := h.cycles
  system := ⟨h.ia, h.iq, h.queue, h.halted, h.arrivals, h.hostStop, h.cfg⟩
  control := ⟨fun _ => h.sysIqm, fun _ => h.mpuBase, fun _ => h.mpuLimit, fun _ => h.mpuCtrl⟩
  memory := fun k _ => by rw [h.mem]
  wf := fun w => by rw [h.mem]; exact w
  installed := fun w => by rw [h.mem]; exact w

theorem scbWrite_storeStep (addr v : Word) (s : State) (ha : 0xE000 ≤ addr.toNat) (h0 : slotOf addr = 0) :
    StoreStep addr s (scbWrite (offsetOf addr) v s) := by
  have hk := slotOf_eq_zero ha h0
  have hmem : ∀ n : Nat, offsetOf addr = n → n < 0x2000 → addr = BitVec.ofNat 16 (0xE000 + n) := by
    intro n hn hlt
    apply BitVec.eq_of_toNat_eq
    rw [BitVec.toNat_ofNat, hk, hn]
    omega
  unfold scbWrite
  split
  · rename_i h
    have := hmem _ h (by decide)
    subst this
    exact { regs := rfl, pc := rfl, sp := rfl, ex := rfl, fl := rfl, sysTicks := rfl, supply := rfl, drawn := rfl,
            cycles := rfl, system := ⟨rfl, rfl, rfl, rfl, rfl, rfl, rfl⟩,
            control := ⟨fun h => absurd (by simp) h, fun _ => rfl, fun _ => rfl, fun _ => rfl⟩,
            memory := fun _ _ => rfl, wf := id, installed := id }
  · rename_i h
    have := hmem _ h (by decide)
    subst this
    exact { regs := rfl, pc := rfl, sp := rfl, ex := rfl, fl := rfl, sysTicks := rfl, supply := rfl, drawn := rfl,
            cycles := rfl, system := ⟨rfl, rfl, rfl, rfl, rfl, rfl, rfl⟩,
            control := ⟨fun _ => rfl, fun h => absurd (by simp) h, fun _ => rfl, fun _ => rfl⟩,
            memory := fun _ _ => rfl, wf := id, installed := id }
  · rename_i h
    have := hmem _ h (by decide)
    subst this
    exact { regs := rfl, pc := rfl, sp := rfl, ex := rfl, fl := rfl, sysTicks := rfl, supply := rfl, drawn := rfl,
            cycles := rfl, system := ⟨rfl, rfl, rfl, rfl, rfl, rfl, rfl⟩,
            control := ⟨fun _ => rfl, fun _ => rfl, fun h => absurd (by simp) h, fun _ => rfl⟩,
            memory := fun _ _ => rfl, wf := id, installed := id }
  · rename_i h
    have := hmem _ h (by decide)
    subst this
    exact { regs := rfl, pc := rfl, sp := rfl, ex := rfl, fl := rfl, sysTicks := rfl, supply := rfl, drawn := rfl,
            cycles := rfl, system := ⟨rfl, rfl, rfl, rfl, rfl, rfl, rfl⟩,
            control := ⟨fun _ => rfl, fun _ => rfl, fun _ => rfl, fun h => absurd (by simp) h⟩,
            memory := fun _ _ => rfl, wf := id, installed := id }
  · exact StoreStep.of_same (EnvStep.refl s) rfl rfl rfl

/-- A store changes nothing but the word it names, or the control register it names. -/
theorem memWrite_storeStep (addr v : Word) (s : State) : StoreStep addr s (memWrite addr v s) := by
  unfold memWrite
  split
  · unfold noteViolation
    split
    · exact StoreStep.of_same (setMpuf_envStep s true) rfl rfl rfl
    · exact StoreStep.of_same (EnvStep.refl s) rfl rfl rfl
  · unfold physWrite
    split
    · rename_i ha
      unfold devWrite
      split
      · exact scbWrite_storeStep addr v s ha ‹_›
      · exact StoreStep.of_same (emit_envStep s _) rfl rfl rfl
    · split
      · rename_i hr
        exact { regs := rfl, pc := rfl, sp := rfl, ex := rfl, fl := rfl, sysTicks := rfl, supply := rfl, drawn := rfl,
                cycles := rfl, system := ⟨rfl, rfl, rfl, rfl, rfl, rfl, rfl⟩,
                control := ⟨fun _ => rfl, fun _ => rfl, fun _ => rfl, fun _ => rfl⟩,
                memory := fun k hk => Memory.readByte_writeWord_other _ _ _ _ (hk addr (by simp)),
                wf := Memory.wf_writeWord _ _ _,
                installed := fun hi c hc => by
                  rcases Memory.mem_writeWord hc with h | h | h
                  · omega
                  · omega
                  · exact hi c h }
      · exact StoreStep.of_same (EnvStep.refl s) rfl rfl rfl

/-! ### Relations that compose -/

theorem MemoryKept.refl (ws : List Word) (s : State) : MemoryKept ws s s := fun _ _ => rfl

theorem MemoryKept.trans {ws : List Word} {s t u : State} (h : MemoryKept ws s t) (g : MemoryKept ws t u) :
    MemoryKept ws s u := fun k hk => (g k hk).trans (h k hk)

theorem MemoryKept.mono {ws vs : List Word} {s t : State} (h : MemoryKept ws s t) (hs : ∀ w ∈ ws, w ∈ vs) :
    MemoryKept vs s t := fun k hk => h k (fun w hw => hk w (hs w hw))

theorem MemoryKept.of_eq {ws : List Word} {s t : State} (h : t.mem = s.mem) : MemoryKept ws s t :=
  fun k _ => by rw [h]

theorem ControlKept.refl (ws : List Word) (s : State) : ControlKept ws s s :=
  ⟨fun _ => rfl, fun _ => rfl, fun _ => rfl, fun _ => rfl⟩

theorem ControlKept.trans {ws : List Word} {s t u : State} (h : ControlKept ws s t) (g : ControlKept ws t u) :
    ControlKept ws s u :=
  ⟨fun k => (g.iqm k).trans (h.iqm k), fun k => (g.base k).trans (h.base k),
   fun k => (g.limit k).trans (h.limit k), fun k => (g.ctrl k).trans (h.ctrl k)⟩

theorem ControlKept.mono {ws vs : List Word} {s t : State} (h : ControlKept ws s t) (hs : ∀ w ∈ ws, w ∈ vs) :
    ControlKept vs s t :=
  ⟨fun k => h.iqm (fun hw => k (hs _ hw)), fun k => h.base (fun hw => k (hs _ hw)),
   fun k => h.limit (fun hw => k (hs _ hw)), fun k => h.ctrl (fun hw => k (hs _ hw))⟩

theorem SystemKept.refl (s : State) : SystemKept s s := ⟨rfl, rfl, rfl, rfl, rfl, rfl, rfl⟩

theorem SystemKept.trans {s t u : State} (h : SystemKept s t) (g : SystemKept t u) : SystemKept s u :=
  ⟨g.ia.trans h.ia, g.iq.trans h.iq, g.queue.trans h.queue, g.halted.trans h.halted,
   g.arrivals.trans h.arrivals, g.hostStop.trans h.hostStop, g.cfg.trans h.cfg⟩

theorem EnvStep.systemKept {s t : State} (h : EnvStep s t) : SystemKept s t :=
  ⟨h.ia, h.iq, h.queue, h.halted, h.arrivals, h.hostStop, h.cfg⟩

theorem EnvStep.controlKept {s t : State} (ws : List Word) (h : EnvStep s t) : ControlKept ws s t :=
  ⟨fun _ => h.sysIqm, fun _ => h.mpuBase, fun _ => h.mpuLimit, fun _ => h.mpuCtrl⟩

theorem EnvStep.memoryKept {s t : State} (ws : List Word) (h : EnvStep s t) : MemoryKept ws s t :=
  MemoryKept.of_eq h.mem

/-! ### The stack -/

/-- A push moves SP down by one and stores at the new SP. -/
theorem push_storeStep (v : Word) (s : State) : StoreStep (s.sp - 1#16) (s.setSp (s.sp - 1#16)) (push v s) :=
  memWrite_storeStep _ _ _

theorem push_sp (v : Word) (s : State) : (push v s).sp = s.sp - 1#16 := (push_storeStep v s).sp

/-- A pop yields what the word at SP reads as, and moves SP up by one. -/
theorem pop_eq (s : State) : pop s = ((memRead s.sp s).1, (memRead s.sp s).2.setSp (s.sp + 1#16)) := by
  unfold pop
  simp only [(memRead_envStep s.sp s).sp]

/-! ### Entering a handler -/

theorem enterHandler_pc (m : Word) (s : State) : (enterHandler m s).pc = s.ia := by
  have h1 := push_storeStep s.pc s
  have h2 := push_storeStep ((push s.pc s).reg .A) (push s.pc s)
  show (push ((push s.pc s).reg .A) (push s.pc s)).ia = s.ia
  rw [h2.system.ia]
  exact h1.system.ia

theorem enterHandler_sp (m : Word) (s : State) : (enterHandler m s).sp = s.sp - 2#16 := by
  have h2 := push_sp ((push s.pc s).reg .A) (push s.pc s)
  show (push ((push s.pc s).reg .A) (push s.pc s)).sp = s.sp - 2#16
  rw [h2, push_sp]
  bv_omega

theorem enterHandler_reg (m : Word) (s : State) (r : Reg) :
    (enterHandler m s).reg r = if r = .A then m else s.reg r := by
  have h1 := push_storeStep s.pc s
  have h2 := push_storeStep ((push s.pc s).reg .A) (push s.pc s)
  unfold enterHandler
  rw [State.setHalted_reg, State.reg_setReg, State.setPc_reg]
  split
  · rfl
  · have e2 : (push ((push s.pc s).reg .A) (push s.pc s)).regs = s.regs := h2.regs.trans h1.regs
    unfold State.reg at e2 ⊢
    rw [e2]

theorem enterHandler_halted (m : Word) (s : State) : (enterHandler m s).halted = false := rfl

theorem enterHandler_iq (m : Word) (s : State) : (enterHandler m s).iq = s.iq := by
  have h1 := push_storeStep s.pc s
  have h2 := push_storeStep ((push s.pc s).reg .A) (push s.pc s)
  exact h2.system.iq.trans h1.system.iq

theorem enterHandler_ia (m : Word) (s : State) : (enterHandler m s).ia = s.ia := by
  have h1 := push_storeStep s.pc s
  have h2 := push_storeStep ((push s.pc s).reg .A) (push s.pc s)
  exact h2.system.ia.trans h1.system.ia

theorem enterHandler_queue (m : Word) (s : State) : (enterHandler m s).queue = s.queue := by
  have h1 := push_storeStep s.pc s
  have h2 := push_storeStep ((push s.pc s).reg .A) (push s.pc s)
  exact h2.system.queue.trans h1.system.queue

theorem enterHandler_cfg (m : Word) (s : State) : (enterHandler m s).cfg = s.cfg := by
  have h1 := push_storeStep s.pc s
  have h2 := push_storeStep ((push s.pc s).reg .A) (push s.pc s)
  exact h2.system.cfg.trans h1.system.cfg

theorem enterHandler_arrivals (m : Word) (s : State) : (enterHandler m s).arrivals = s.arrivals := by
  have h1 := push_storeStep s.pc s
  have h2 := push_storeStep ((push s.pc s).reg .A) (push s.pc s)
  exact h2.system.arrivals.trans h1.system.arrivals

theorem enterHandler_hostStop (m : Word) (s : State) : (enterHandler m s).hostStop = s.hostStop := by
  have h1 := push_storeStep s.pc s
  have h2 := push_storeStep ((push s.pc s).reg .A) (push s.pc s)
  exact h2.system.hostStop.trans h1.system.hostStop

theorem enterHandler_ex (m : Word) (s : State) : (enterHandler m s).ex = s.ex := by
  have h1 := push_storeStep s.pc s
  have h2 := push_storeStep ((push s.pc s).reg .A) (push s.pc s)
  exact h2.ex.trans h1.ex

theorem enterHandler_fl (m : Word) (s : State) : (enterHandler m s).fl = s.fl := by
  have h1 := push_storeStep s.pc s
  have h2 := push_storeStep ((push s.pc s).reg .A) (push s.pc s)
  exact h2.fl.trans h1.fl

theorem enterHandler_memoryKept (m : Word) (s : State) :
    MemoryKept [s.sp - 1#16, s.sp - 2#16] s (enterHandler m s) := by
  have h1 := push_storeStep s.pc s
  have h2 := push_storeStep ((push s.pc s).reg .A) (push s.pc s)
  rw [push_sp] at h2
  have e : s.sp - 1#16 - 1#16 = s.sp - 2#16 := by bv_omega
  rw [e] at h2
  intro k hk
  refine (h2.memory k (fun w hw => hk w ?_)).trans (h1.memory k (fun w hw => hk w ?_))
  · simp at hw; simp [hw]
  · simp at hw; simp [hw]

theorem enterHandler_controlKept (m : Word) (s : State) :
    ControlKept [s.sp - 1#16, s.sp - 2#16] s (enterHandler m s) := by
  have h1 := push_storeStep s.pc s
  have h2 := push_storeStep ((push s.pc s).reg .A) (push s.pc s)
  rw [push_sp] at h2
  have e : s.sp - 1#16 - 1#16 = s.sp - 2#16 := by bv_omega
  rw [e] at h2
  have d1 : ControlKept [s.sp - 1#16] s (push s.pc s) :=
    ⟨h1.control.iqm, h1.control.base, h1.control.limit, h1.control.ctrl⟩
  have d2 : ControlKept [s.sp - 2#16] (push s.pc s) (enterHandler m s) :=
    ⟨h2.control.iqm, h2.control.base, h2.control.limit, h2.control.ctrl⟩
  have c1 : ControlKept [s.sp - 1#16, s.sp - 2#16] s (push s.pc s) := d1.mono (by simp)
  have c2 : ControlKept [s.sp - 1#16, s.sp - 2#16] (push s.pc s) (enterHandler m s) := d2.mono (by simp)
  exact c1.trans c2

/-- The part of the invariant that every operation keeps: RAM is canonical and installed, the queue is bounded. -/
structure Sound (s : State) : Prop where
  memory : s.mem.wf = true
  installed : ∀ c ∈ s.mem, c.1 < 2 * s.cfg.ram.words
  queue : s.queue.length ≤ 256

theorem Sound.envStep {s t : State} (h : EnvStep s t) (g : Sound s) : Sound t :=
  ⟨by rw [h.mem]; exact g.memory, by rw [h.mem, h.cfg]; exact g.installed, by rw [h.queue]; exact g.queue⟩

theorem Sound.storeStep {addr : Word} {s t : State} (h : StoreStep addr s t) (g : Sound s) : Sound t :=
  ⟨h.wf g.memory, by rw [h.system.cfg]; exact h.installed g.installed, by rw [h.system.queue]; exact g.queue⟩

theorem Sound.push {s : State} (v : Word) (g : Sound s) : Sound (push v s) :=
  Sound.storeStep (push_storeStep v s) ⟨g.memory, g.installed, g.queue⟩

theorem Sound.pop {s : State} (g : Sound s) : Sound (pop s).2 := by
  rw [pop_eq]
  have h := Sound.envStep (memRead_envStep s.sp s) g
  exact ⟨h.memory, h.installed, h.queue⟩

theorem Sound.enterHandler {s : State} (m : Word) (g : Sound s) : Sound (enterHandler m s) := by
  have h := Sound.push ((Machine.push s.pc s).reg .A) (Sound.push s.pc g)
  exact ⟨h.memory, h.installed, h.queue⟩

theorem Sound.dispatch {s : State} (m : Word) (g : Sound s) : Sound (dispatch m s) := by
  have h : Sound (Machine.enterHandler m (s.setIq true)) := Sound.enterHandler m ⟨g.memory, g.installed, g.queue⟩
  unfold Machine.dispatch
  simp only
  split
  · split
    · refine ⟨h.memory, h.installed, ?_⟩
      show ((Machine.enterHandler m (s.setIq true)).queue ++ [0xFFFE#16]).length ≤ 256
      rw [List.length_append]
      simp only [List.length_singleton]
      omega
    · exact ⟨h.memory, h.installed, h.queue⟩
  · exact h

theorem Sound.overflowFault {s : State} (g : Sound s) : Sound (overflowFault s) := by
  have h := Sound.enterHandler 0xFFFF#16 g
  exact ⟨h.memory, h.installed, h.queue⟩

theorem Sound.enqueueMsg {s : State} (m : Word) (g : Sound s) : Sound (enqueueMsg m s) := by
  unfold Machine.enqueueMsg
  split
  · refine ⟨g.memory, g.installed, ?_⟩
    show (s.queue ++ [m]).length ≤ 256
    rw [List.length_append]
    simp only [List.length_singleton]
    omega
  · split
    · refine ⟨g.memory, g.installed, ?_⟩
      show (s.queue.drop 1 ++ [m]).length ≤ 256
      have := g.queue
      rw [List.length_append, List.length_drop]
      simp only [List.length_singleton]
      omega
    · split
      · exact Sound.overflowFault g
      · exact g

theorem Sound.enqueue {s : State} (m : Word) (g : Sound s) : Sound (enqueue m s) := by
  have h := Sound.enqueueMsg m g
  unfold Machine.enqueue
  simp only
  split
  · exact ⟨h.memory, h.installed, h.queue⟩
  · exact h

theorem Sound.arrive {s : State} (m : Word) (g : Sound s) : Sound (arrive m s) := by
  unfold Machine.arrive
  split
  · exact g
  · split
    · exact Sound.enqueue m g
    · exact Sound.dispatch m g

theorem Sound.boundary {s : State} (g : Sound s) : Sound (boundary s) := by
  have hd : Sound (deliverQueued s) := by
    unfold deliverQueued
    split
    · exact g
    · split
      · exact g
      · rename_i m rest hq
        have hr : Sound (s.setQueue rest) := by
          refine ⟨g.memory, g.installed, ?_⟩
          have := g.queue
          rw [hq] at this
          simp at this
          show rest.length ≤ 256
          omega
        unfold deliver
        split
        · exact hr
        · exact Sound.dispatch m hr
  unfold Machine.boundary takeArrivals
  split
  · exact hd
  · rename_i ms later hm
    clear hm
    have h0 : Sound ((deliverQueued s).setArrivals later) := ⟨hd.memory, hd.installed, hd.queue⟩
    generalize (deliverQueued s).setArrivals later = u at h0
    induction ms generalizing u with
    | nil => exact h0
    | cons m ms ih => exact ih (Machine.arrive m u) (Sound.arrive m h0)

theorem Sound.endOfInstruction {s : State} (g : Sound s) : Sound (endOfInstruction s) := by
  unfold Machine.endOfInstruction reportViolation
  split
  · exact Sound.boundary (Sound.arrive _ ⟨g.memory, g.installed, g.queue⟩)
  · exact Sound.boundary g

theorem Sound.returnFromInterrupt {s : State} (g : Sound s) : Sound (returnFromInterrupt s) := by
  have h1 := Sound.pop g
  have h2 : Sound (Machine.pop ((Machine.pop s).2.setReg .A (Machine.pop s).1)).2 :=
    Sound.pop ⟨h1.memory, h1.installed, h1.queue⟩
  exact ⟨h2.memory, h2.installed, h2.queue⟩

/-! ### No violation is left behind -/

theorem dispatch_mpuf (m : Word) (s : State) : (dispatch m s).mpuf = false := by
  unfold dispatch
  simp only
  split
  · split <;> rfl
  · rename_i h; simpa using h

theorem overflowFault_mpuf (s : State) : (overflowFault s).mpuf = false := rfl

theorem arrive_mpuf (m : Word) (s : State) (h : s.mpuf = false) : (arrive m s).mpuf = false := by
  unfold arrive
  split
  · exact h
  · split
    · unfold enqueue
      have : (enqueueMsg m s).mpuf = false := by
        unfold enqueueMsg
        split
        · exact h
        · split
          · exact h
          · split
            · rfl
            · exact h
      simp only
      split <;> exact this
    · exact dispatch_mpuf m s

theorem boundary_mpuf (s : State) (h : s.mpuf = false) : (boundary s).mpuf = false := by
  have hd : (deliverQueued s).mpuf = false := by
    unfold deliverQueued
    split
    · exact h
    · split
      · exact h
      · unfold deliver
        split
        · exact h
        · exact dispatch_mpuf _ _
  unfold boundary takeArrivals
  split
  · exact hd
  · rename_i ms later hm
    clear hm
    have h0 : ((deliverQueued s).setArrivals later).mpuf = false := hd
    generalize (deliverQueued s).setArrivals later = u at h0
    induction ms generalizing u with
    | nil => exact h0
    | cons m ms ih => exact ih (arrive m u) (arrive_mpuf m u h0)

/-- Stopped by the host, a step changes nothing (70_reset_and_hazards.md R375, R377). -/
theorem step_stopped {s : State} (h : s.hostStop ≠ .running) : step s = .next s := by
  unfold step
  split <;> first | rfl | exact absurd ‹_› h

/-- No step and no resume of the host's ends a CatastrophicHalt. -/
theorem catastrophe_stays {s : State} (h : s.hostStop = .catastrophe) : step s = .next s ∧ resumeAfterBreak s = s := by
  refine ⟨step_stopped (by rw [h]; decide), ?_⟩
  unfold resumeAfterBreak
  rw [h]
  rfl

theorem endOfInstruction_mpuf (s : State) : (endOfInstruction s).mpuf = false := by
  unfold endOfInstruction reportViolation
  split
  · exact boundary_mpuf _ (arrive_mpuf _ _ rfl)
  · rename_i h; exact boundary_mpuf _ (by simpa using h)

end Sys2Proof.Machine
end

