-- ==== Sys2Proof/Laws/Operands.lean ====
section
/-! SUPPORT. What evaluating, reading and writing an operand can do, said once, and the shapes of instruction in the
words of the statements (30_encoding.md R87 to R93). -/

namespace Sys2Proof.Machine

/-! ### Locations -/

/-- Operand `a` moves PC past its next word, and SP if it is POP; nothing else. -/
theorem locA_state (a : OpA) (s : State) :
    (locA a s).2 = (s.setPc (s.pc + BitVec.ofNat 16 a.next.length)).setSp (spAfterA a s.sp) := by
  cases a <;> simp [locA, OpA.next, spAfterA, State.setPc, State.setSp, advancePc]

/-- A next word's fetch moves PC past it, and does what a read may do. -/
theorem fetchNext_envStep (s : State) : EnvStep (s.setPc (s.pc + 1#16)) (fetchNext s) := by
  obtain ⟨x1, x2, x3, x4, x5, h⟩ := memRead_envStep s.pc s
  exact ⟨x1, x2, x3, x4, x5, by unfold fetchNext advancePc; rw [h]; rfl⟩

/-- In plain RAM a next word's fetch only moves PC. -/
theorem fetchNext_plain {s : State} (h : plainRam s.pc .read s) : fetchNext s = s.setPc (s.pc + 1#16) := by
  unfold fetchNext advancePc
  rw [memRead_plain h]

/-- Operand `b` fetches its next word, moving PC past it, and moves SP if it is PUSH; nothing else. -/
theorem locB_envStep (b : OpB) (s : State) :
    EnvStep ((s.setPc (s.pc + BitVec.ofNat 16 b.next.length)).setSp (spAfterB b s.sp)) (locB b s).2 := by
  have e : ∀ t : State, (t.setPc (t.pc + BitVec.ofNat 16 0)).setSp t.sp = t := fun t => by
    simp [State.setPc, State.setSp]
  cases b with
  | idx r nw => exact fetchNext_envStep s
  | pick nw => exact fetchNext_envStep s
  | dir nw => exact fetchNext_envStep s
  | push =>
    have e2 : s.setPc (s.pc + BitVec.ofNat 16 0) = s := by simp [State.setPc]
    show EnvStep ((s.setPc (s.pc + BitVec.ofNat 16 0)).setSp (s.sp - 1#16)) (s.setSp (s.sp - 1#16))
    rw [e2]
    exact EnvStep.refl _
  | reg r => exact (e s).symm ▸ EnvStep.refl s
  | ind r => exact (e s).symm ▸ EnvStep.refl s
  | peek => exact (e s).symm ▸ EnvStep.refl s
  | sp => exact (e s).symm ▸ EnvStep.refl s
  | pc => exact (e s).symm ▸ EnvStep.refl s
  | ex => exact (e s).symm ▸ EnvStep.refl s
  | fl => exact (e s).symm ▸ EnvStep.refl s

/-- Passing operand `a` over moves PC past its next word; nothing else. -/
theorem passA_eq (a : OpA) (s : State) : passA a s = passed a s := by
  cases a <;> simp [passA, passed, OpA.next, State.setPc, advancePc]

theorem locA_ne_memPush (a : OpA) (s : State) (w : Word) : (locA a s).1 ≠ .memPush w := by
  cases a <;> simp [locA]

theorem locA_memPop (a : OpA) (s : State) (w : Word) (h : (locA a s).1 = .memPop w) : a = .pop := by
  cases a <;> simp [locA] at h ⊢

theorem locB_ne_memPop (b : OpB) (s : State) (w : Word) : (locB b s).1 ≠ .memPop w := by
  cases b <;> simp [locB]

theorem locB_memPush (b : OpB) (s : State) (w : Word) (h : (locB b s).1 = .memPush w) : b = .push := by
  cases b <;> simp [locB] at h ⊢

theorem locB_ne_lit (b : OpB) (s : State) (v : Word) : (locB b s).1 ≠ .lit v := by
  cases b <;> simp [locB]

/-! ### Reading -/

theorem loadLoc_envStep (l : Loc) (s : State) : EnvStep s (loadLoc l s).2 := by
  cases l <;> first | exact EnvStep.refl s | exact memRead_envStep _ s

theorem readA_envStep (a : OpA) (s : State) :
    EnvStep ((s.setPc (s.pc + BitVec.ofNat 16 a.next.length)).setSp (spAfterA a s.sp)) (readA a s).2 := by
  have h := loadLoc_envStep (locA a s).1 (locA a s).2
  rw [locA_state] at h
  unfold readA
  simp only
  rw [locA_state]
  exact h

theorem readLoc_of_ne {l : Loc} (s : State) (h : ∀ w, l ≠ .memPush w) : readLoc l s = .ok (loadLoc l s) := by
  cases l <;> first | rfl | exact absurd rfl (h _)

theorem writeLoc_of_ne {l : Loc} (v : Word) (s : State) (h : ∀ w, l ≠ .memPop w) :
    writeLoc l v s = .ok (storeLoc l v s) := by
  cases l <;> first | rfl | exact absurd rfl (h _)

/-- The state once `a` is read and `b` is resolved. -/
theorem resolve_envStep (b : OpB) (a : OpA) (s : State) :
    EnvStep ((s.setPc (s.pc + BitVec.ofNat 16 a.next.length + BitVec.ofNat 16 b.next.length)).setSp
      (spAfterB b (spAfterA a s.sp))) (locB b (readA a s).2).2 := by
  have h2 := locB_envStep b (readA a s).2
  obtain ⟨x1, x2, x3, x4, x5, h1⟩ := readA_envStep a s
  rw [h1] at h2 ⊢
  obtain ⟨y1, y2, y3, y4, y5, h2⟩ := h2
  exact ⟨y1, y2, y3, y4, y5, h2⟩

/-- The state once the operands are known: PC is past the next words, SP where POP and PUSH put it, and reads have done
what reads may do. -/
theorem evaluate_envStep (b : OpB) (a : OpA) (s : State) :
    EnvStep ((s.setPc (s.pc + BitVec.ofNat 16 a.next.length + BitVec.ofNat 16 b.next.length)).setSp
      (spAfterB b (spAfterA a s.sp))) (evaluate b a s).after :=
  (resolve_envStep b a s).trans (loadLoc_envStep (locB b (readA a s).2).1 (locB b (readA a s).2).2)

/-! ### Writing -/

/-- What a write to a location may change. -/
structure PutStep (l : Loc) (s t : State) : Prop where
  regs : ∀ r, l ≠ .reg r → t.reg r = s.reg r
  pc : l ≠ .pc → t.pc = s.pc
  sp : l ≠ .sp → t.sp = s.sp
  ex : l ≠ .ex → t.ex = s.ex
  fl : l ≠ .fl → t.fl = s.fl
  sysTicks : t.sysTicks = s.sysTicks
  supply : t.supply = s.supply
  drawn : t.drawn = s.drawn
  cycles : t.cycles = s.cycles
  system : SystemKept s t
  control : ControlKept l.target s t
  memory : MemoryKept l.target s t
  sound : Sound s → Sound t

theorem StoreStep.putStep {addr : Word} {l : Loc} {s t : State} (h : StoreStep addr s t) (hl : l.target = [addr])
    (hs : Sound s → Sound t) : PutStep l s t where
  regs := fun r _ => by unfold State.reg; rw [h.regs]
  pc := fun _ => h.pc
  sp := fun _ => h.sp
  ex := fun _ => h.ex
  fl := fun _ => h.fl
  sysTicks := h.sysTicks
  supply := h.supply
  drawn := h.drawn
  cycles := h.cycles
  system := h.system
  control := hl ▸ h.control
  memory := hl ▸ h.memory
  sound := hs

theorem storeLoc_putStep (l : Loc) (v : Word) (s : State) : PutStep l s (storeLoc l v s) := by
  cases l with
  | reg r =>
    exact { regs := fun q h => State.reg_setReg_ne s (fun e => h (by rw [e])) v, pc := fun _ => rfl, sp := fun _ => rfl,
            ex := fun _ => rfl, fl := fun _ => rfl, sysTicks := rfl, supply := rfl, drawn := rfl, cycles := rfl,
            system := ⟨rfl, rfl, rfl, rfl, rfl, rfl, rfl⟩,
            control := ⟨fun _ => rfl, fun _ => rfl, fun _ => rfl, fun _ => rfl⟩, memory := MemoryKept.refl _ s,
            sound := fun g => ⟨g.memory, g.installed, g.queue⟩ }
  | pc =>
    exact { regs := fun _ _ => rfl, pc := fun h => absurd rfl h, sp := fun _ => rfl, ex := fun _ => rfl,
            fl := fun _ => rfl, sysTicks := rfl, supply := rfl, drawn := rfl, cycles := rfl,
            system := ⟨rfl, rfl, rfl, rfl, rfl, rfl, rfl⟩,
            control := ⟨fun _ => rfl, fun _ => rfl, fun _ => rfl, fun _ => rfl⟩, memory := MemoryKept.refl _ s,
            sound := fun g => ⟨g.memory, g.installed, g.queue⟩ }
  | sp =>
    exact { regs := fun _ _ => rfl, pc := fun _ => rfl, sp := fun h => absurd rfl h, ex := fun _ => rfl,
            fl := fun _ => rfl, sysTicks := rfl, supply := rfl, drawn := rfl, cycles := rfl,
            system := ⟨rfl, rfl, rfl, rfl, rfl, rfl, rfl⟩,
            control := ⟨fun _ => rfl, fun _ => rfl, fun _ => rfl, fun _ => rfl⟩, memory := MemoryKept.refl _ s,
            sound := fun g => ⟨g.memory, g.installed, g.queue⟩ }
  | ex =>
    exact { regs := fun _ _ => rfl, pc := fun _ => rfl, sp := fun _ => rfl, ex := fun h => absurd rfl h,
            fl := fun _ => rfl, sysTicks := rfl, supply := rfl, drawn := rfl, cycles := rfl,
            system := ⟨rfl, rfl, rfl, rfl, rfl, rfl, rfl⟩,
            control := ⟨fun _ => rfl, fun _ => rfl, fun _ => rfl, fun _ => rfl⟩, memory := MemoryKept.refl _ s,
            sound := fun g => ⟨g.memory, g.installed, g.queue⟩ }
  | fl =>
    exact { regs := fun _ _ => rfl, pc := fun _ => rfl, sp := fun _ => rfl, ex := fun _ => rfl,
            fl := fun h => absurd rfl h, sysTicks := rfl, supply := rfl, drawn := rfl, cycles := rfl,
            system := ⟨rfl, rfl, rfl, rfl, rfl, rfl, rfl⟩,
            control := ⟨fun _ => rfl, fun _ => rfl, fun _ => rfl, fun _ => rfl⟩, memory := MemoryKept.refl _ s,
            sound := fun g => ⟨g.memory, g.installed, g.queue⟩ }
  | lit w =>
    exact { regs := fun _ _ => rfl, pc := fun _ => rfl, sp := fun _ => rfl, ex := fun _ => rfl,
            fl := fun _ => rfl, sysTicks := rfl, supply := rfl, drawn := rfl, cycles := rfl,
            system := ⟨rfl, rfl, rfl, rfl, rfl, rfl, rfl⟩,
            control := ⟨fun _ => rfl, fun _ => rfl, fun _ => rfl, fun _ => rfl⟩, memory := MemoryKept.refl _ s,
            sound := id }
  | mem w => exact (memWrite_storeStep w v s).putStep rfl (Sound.storeStep (memWrite_storeStep w v s))
  | memPush w => exact (memWrite_storeStep w v s).putStep rfl (Sound.storeStep (memWrite_storeStep w v s))
  | memPop w => exact (memWrite_storeStep w v s).putStep rfl (Sound.storeStep (memWrite_storeStep w v s))

/-! ### Shapes of instruction -/

/-- A basic instruction that reads and writes `b`. -/
theorem readModifyWrite_eq (base : Nat) (f : Flags → Word → Word → AluOut) {b : OpB} (hb : b ≠ .push) (a : OpA)
    (s : State) :
    readModifyWrite base f b a s =
      .next (storeLoc (evaluate b a s).dest (f s.fl (evaluate b a s).vb (evaluate b a s).va).r
        ((putEx (f s.fl (evaluate b a s).vb (evaluate b a s).va).ex
          ((evaluate b a s).after.charge (base + costA a + costB b))).setFl
            (f s.fl (evaluate b a s).vb (evaluate b a s).va).fl)) := by
  have hf : (evaluate b a s).after.fl = s.fl := (evaluate_envStep b a s).fl
  have hr : readLoc (locB b (readA a s).2).1 (locB b (readA a s).2).2 =
      .ok ((evaluate b a s).vb, (evaluate b a s).after) :=
    readLoc_of_ne _ (fun w h => hb (locB_memPush b _ w h))
  have hd : (evaluate b a s).dest = (locB b (readA a s).2).1 := rfl
  unfold readModifyWrite
  simp only [hr, putOut]
  rw [hf, writeLoc_of_ne _ _ (fun w h => locB_ne_memPop b _ w h), hd]
  rfl

/-- A basic instruction that reads `b` and writes only the flags. -/
theorem compareOnly_eq (base : Nat) (f : Flags → Word → Word → AluOut) {b : OpB} (hb : b ≠ .push) (a : OpA)
    (s : State) :
    compareOnly base f b a s =
      .next (((evaluate b a s).after.charge (base + costA a + costB b)).setFl
        (f s.fl (evaluate b a s).vb (evaluate b a s).va).fl) := by
  have hf : (evaluate b a s).after.fl = s.fl := (evaluate_envStep b a s).fl
  have hr : readLoc (locB b (readA a s).2).1 (locB b (readA a s).2).2 =
      .ok ((evaluate b a s).vb, (evaluate b a s).after) :=
    readLoc_of_ne _ (fun w h => hb (locB_memPush b _ w h))
  unfold compareOnly
  simp only [hr]
  rw [hf]
  rfl

/-- An IFx. -/
theorem skipUnless_eq (cond : Word → Word → Bool) {b : OpB} (hb : b ≠ .push) (a : OpA) (s : State) :
    skipUnless cond b a s =
      if cond (evaluate b a s).vb (evaluate b a s).va then
        .next ((evaluate b a s).after.charge (2 + costA a + costB b))
      else .next (afterSkip ((evaluate b a s).after.charge (2 + costA a + costB b))) := by
  have hr : readLoc (locB b (readA a s).2).1 (locB b (readA a s).2).2 =
      .ok ((evaluate b a s).vb, (evaluate b a s).after) :=
    readLoc_of_ne _ (fun w h => hb (locB_memPush b _ w h))
  unfold skipUnless
  simp only [hr]
  rfl

/-- A special instruction that reads and writes `a`. -/
theorem unaryOp_eq (base : Nat) (f : Flags → Word → AluOut) {a : OpA} (ha : a ≠ .pop) (s : State) :
    unaryOp base f a s =
      .next (storeLoc (locA a s).1 (f s.fl (readA a s).1).r
        ((putEx (f s.fl (readA a s).1).ex ((readA a s).2.charge (base + costA a))).setFl
          (f s.fl (readA a s).1).fl)) := by
  have hf : (readA a s).2.fl = s.fl := (readA_envStep a s).fl
  have hr : readLoc (locA a s).1 (locA a s).2 = .ok ((readA a s).1, (readA a s).2) :=
    readLoc_of_ne _ (fun w h => locA_ne_memPush a s w h)
  unfold unaryOp
  simp only [hr, putOut]
  rw [hf, writeLoc_of_ne _ _ (fun w h => ha (locA_memPop a s w h))]

/-- A conditional jump. -/
theorem jumpIf_eq (cond : Flags → Bool) (a : OpA) (s : State) :
    jumpIf cond a s =
      if cond s.fl then .next (((readA a s).2.setPc (readA a s).1).charge (3 + costA a))
      else .next ((passed a s).charge (2 + costA a)) := by
  unfold jumpIf
  rw [passA_eq]

/-! ### The skip -/

/-- A skip changes PC, and what reads may change. -/
theorem skipFrom_envStep (n : Nat) (s : State) : ∃ v, EnvStep (s.setPc v) (skipFrom n s).2 := by
  induction n generalizing s with
  | zero => exact ⟨s.pc, EnvStep.refl s⟩
  | succ n ih =>
    have hm := memRead_envStep s.pc s
    simp only [skipFrom]
    split
    · obtain ⟨v, hv⟩ := ih ((memRead s.pc s).2.setPc
        ((memRead s.pc s).2.pc + BitVec.ofNat 16 (lengthOf (memRead s.pc s).1)))
      refine ⟨v, ?_⟩
      obtain ⟨x1, x2, x3, x4, x5, hm⟩ := hm
      rw [hm] at hv ⊢
      obtain ⟨y1, y2, y3, y4, y5, hv⟩ := hv
      exact ⟨y1, y2, y3, y4, y5, hv⟩
    · refine ⟨(memRead s.pc s).2.pc + BitVec.ofNat 16 (lengthOf (memRead s.pc s).1), ?_⟩
      obtain ⟨x1, x2, x3, x4, x5, hm⟩ := hm
      rw [hm]
      exact ⟨x1, x2, x3, x4, x5, rfl⟩

end Sys2Proof.Machine
end

