-- ==== Sys2Proof/Laws/PerInstr.lean ====
section
/-! SUPPORT. The family EncodedLength: the encoding of a well-formed instruction is as long as its first word says, which
is one to three words (30_encoding.md R80, R86). -/

namespace Sys2Proof.Laws.EncodedLength

/-- The words of an instruction are as many as its first word says. -/
def Statement (i : Instr) : Prop :=
  i.wf = true → ∃ w ws, encode i = w :: ws ∧ (encode i).length = lengthOf w ∧ lengthOf w ≤ 3

theorem lengthOf_le (w : Word) : lengthOf w ≤ 3 := by
  unfold lengthOf
  have h1 := Bool.toNat_le (nwA (fieldA w))
  have h2 := Bool.toNat_le (hasNextB w)
  omega

theorem of_basic (i : Instr) (o : BitVec 5) (ho : o ≠ 0#5) (b : OpB) (a : OpA) (he : encode i = encodeBasic o b a)
    (hw : i.wf = a.wf) : Statement i := by
  intro h
  refine ⟨_, _, he, ?_, lengthOf_le _⟩
  rw [he]
  exact length_encodeBasic o ho b a (hw ▸ h)

theorem of_special (i : Instr) (sub : BitVec 5) (a : OpA) (he : encode i = encodeSpecial sub a)
    (hw : i.wf = a.wf) : Statement i := by
  intro h
  refine ⟨_, _, he, ?_, lengthOf_le _⟩
  rw [he]
  exact length_encodeSpecial sub a (hw ▸ h)

theorem set (b : OpB) (a : OpA) : Statement (.set b a) :=
  of_basic _ 0x01 (by decide) b a rfl rfl

theorem add (b : OpB) (a : OpA) : Statement (.add b a) :=
  of_basic _ 0x02 (by decide) b a rfl rfl

theorem sub (b : OpB) (a : OpA) : Statement (.sub b a) :=
  of_basic _ 0x03 (by decide) b a rfl rfl

theorem mul (b : OpB) (a : OpA) : Statement (.mul b a) :=
  of_basic _ 0x04 (by decide) b a rfl rfl

theorem mli (b : OpB) (a : OpA) : Statement (.mli b a) :=
  of_basic _ 0x05 (by decide) b a rfl rfl

theorem div (b : OpB) (a : OpA) : Statement (.div b a) :=
  of_basic _ 0x06 (by decide) b a rfl rfl

theorem dvi (b : OpB) (a : OpA) : Statement (.dvi b a) :=
  of_basic _ 0x07 (by decide) b a rfl rfl

theorem mod (b : OpB) (a : OpA) : Statement (.mod b a) :=
  of_basic _ 0x08 (by decide) b a rfl rfl

theorem mdi (b : OpB) (a : OpA) : Statement (.mdi b a) :=
  of_basic _ 0x09 (by decide) b a rfl rfl

theorem and (b : OpB) (a : OpA) : Statement (.and b a) :=
  of_basic _ 0x0A (by decide) b a rfl rfl

theorem bor (b : OpB) (a : OpA) : Statement (.bor b a) :=
  of_basic _ 0x0B (by decide) b a rfl rfl

theorem xor (b : OpB) (a : OpA) : Statement (.xor b a) :=
  of_basic _ 0x0C (by decide) b a rfl rfl

theorem shr (b : OpB) (a : OpA) : Statement (.shr b a) :=
  of_basic _ 0x0D (by decide) b a rfl rfl

theorem asr (b : OpB) (a : OpA) : Statement (.asr b a) :=
  of_basic _ 0x0E (by decide) b a rfl rfl

theorem shl (b : OpB) (a : OpA) : Statement (.shl b a) :=
  of_basic _ 0x0F (by decide) b a rfl rfl

theorem ifb (b : OpB) (a : OpA) : Statement (.ifb b a) :=
  of_basic _ 0x10 (by decide) b a rfl rfl

theorem ifc (b : OpB) (a : OpA) : Statement (.ifc b a) :=
  of_basic _ 0x11 (by decide) b a rfl rfl

theorem ife (b : OpB) (a : OpA) : Statement (.ife b a) :=
  of_basic _ 0x12 (by decide) b a rfl rfl

theorem ifn (b : OpB) (a : OpA) : Statement (.ifn b a) :=
  of_basic _ 0x13 (by decide) b a rfl rfl

theorem ifg (b : OpB) (a : OpA) : Statement (.ifg b a) :=
  of_basic _ 0x14 (by decide) b a rfl rfl

theorem ifa (b : OpB) (a : OpA) : Statement (.ifa b a) :=
  of_basic _ 0x15 (by decide) b a rfl rfl

theorem ifl (b : OpB) (a : OpA) : Statement (.ifl b a) :=
  of_basic _ 0x16 (by decide) b a rfl rfl

theorem ifu (b : OpB) (a : OpA) : Statement (.ifu b a) :=
  of_basic _ 0x17 (by decide) b a rfl rfl

theorem adc (b : OpB) (a : OpA) : Statement (.adc b a) :=
  of_basic _ 0x18 (by decide) b a rfl rfl

theorem sbb (b : OpB) (a : OpA) : Statement (.sbb b a) :=
  of_basic _ 0x19 (by decide) b a rfl rfl

theorem cmp (b : OpB) (a : OpA) : Statement (.cmp b a) :=
  of_basic _ 0x1A (by decide) b a rfl rfl

theorem tst (b : OpB) (a : OpA) : Statement (.tst b a) :=
  of_basic _ 0x1B (by decide) b a rfl rfl

theorem fxmul (b : OpB) (a : OpA) : Statement (.fxmul b a) :=
  of_basic _ 0x1C (by decide) b a rfl rfl

theorem fxdiv (b : OpB) (a : OpA) : Statement (.fxdiv b a) :=
  of_basic _ 0x1D (by decide) b a rfl rfl

theorem ldb (b : OpB) (a : OpA) : Statement (.ldb b a) :=
  of_basic _ 0x1E (by decide) b a rfl rfl

theorem reserved1F (b : OpB) (a : OpA) : Statement (.reserved1F b a) :=
  of_basic _ 0x1F (by decide) b a rfl rfl

theorem nop (a : OpA) : Statement (.nop a) := of_special _ 0x00 a rfl rfl

theorem jsr (a : OpA) : Statement (.jsr a) := of_special _ 0x01 a rfl rfl

theorem bsr (a : OpA) : Statement (.bsr a) := of_special _ 0x02 a rfl rfl

theorem jz (a : OpA) : Statement (.jz a) := of_special _ 0x03 a rfl rfl

theorem jnz (a : OpA) : Statement (.jnz a) := of_special _ 0x04 a rfl rfl

theorem jc (a : OpA) : Statement (.jc a) := of_special _ 0x05 a rfl rfl

theorem jnc (a : OpA) : Statement (.jnc a) := of_special _ 0x06 a rfl rfl

theorem js (a : OpA) : Statement (.js a) := of_special _ 0x07 a rfl rfl

theorem jns (a : OpA) : Statement (.jns a) := of_special _ 0x08 a rfl rfl

theorem jo (a : OpA) : Statement (.jo a) := of_special _ 0x09 a rfl rfl

theorem ja (a : OpA) : Statement (.ja a) := of_special _ 0x0A a rfl rfl

theorem jbe (a : OpA) : Statement (.jbe a) := of_special _ 0x0B a rfl rfl

theorem jge (a : OpA) : Statement (.jge a) := of_special _ 0x0C a rfl rfl

theorem jl (a : OpA) : Statement (.jl a) := of_special _ 0x0D a rfl rfl

theorem jg (a : OpA) : Statement (.jg a) := of_special _ 0x0E a rfl rfl

theorem jle (a : OpA) : Statement (.jle a) := of_special _ 0x0F a rfl rfl

theorem int (a : OpA) : Statement (.int a) := of_special _ 0x10 a rfl rfl

theorem iag (a : OpA) : Statement (.iag a) := of_special _ 0x11 a rfl rfl

theorem ias (a : OpA) : Statement (.ias a) := of_special _ 0x12 a rfl rfl

theorem rfi (a : OpA) : Statement (.rfi a) := of_special _ 0x13 a rfl rfl

theorem iaq (a : OpA) : Statement (.iaq a) := of_special _ 0x14 a rfl rfl

theorem reserved15 (a : OpA) : Statement (.reserved15 a) := of_special _ 0x15 a rfl rfl

theorem reserved16 (a : OpA) : Statement (.reserved16 a) := of_special _ 0x16 a rfl rfl

theorem reserved17 (a : OpA) : Statement (.reserved17 a) := of_special _ 0x17 a rfl rfl

theorem neg (a : OpA) : Statement (.neg a) := of_special _ 0x18 a rfl rfl

theorem not (a : OpA) : Statement (.not a) := of_special _ 0x19 a rfl rfl

theorem sxb (a : OpA) : Statement (.sxb a) := of_special _ 0x1A a rfl rfl

theorem swp (a : OpA) : Statement (.swp a) := of_special _ 0x1B a rfl rfl

theorem bcopy (a : OpA) : Statement (.bcopy a) := of_special _ 0x1C a rfl rfl

theorem brk (a : OpA) : Statement (.brk a) := of_special _ 0x1D a rfl rfl

theorem hlt (a : OpA) : Statement (.hlt a) := of_special _ 0x1E a rfl rfl

theorem stb (a : OpA) : Statement (.stb a) := of_special _ 0x1F a rfl rfl

end Sys2Proof.Laws.EncodedLength
end

