-- ==== Sys2Proof/Tests/Slice0.lean ====
section
/-! SUPPORT. Smoke tests of well-formedness, decoding tests from words written out from the spec's tables, one step of
each instruction with the values of spec/96_derived_vectors.md, and states that meet the statements' hypotheses. -/

namespace Sys2Proof.Tests

open Sys2Proof Sys2Proof.Machine

/-- Memory with the listed words. -/
def cells (l : List (Nat × Word)) : Memory := l.foldl (fun m c => m.writeWord c.1 c.2) []

/-- The machine with a program's words at PC, the words already in memory kept. -/
def load : List Word → Nat → State → State
  | [], _, s => s
  | w :: ws, k, s => load ws (k + 1) (s.setMem (s.mem.writeWord (s.pc + BitVec.ofNat 16 k).toNat w))

/-- What one step over a program at PC leaves, seen through `f`; none if the step gives no next state. -/
def after (ws : List Word) (s : State) (f : State → List Word) : Option (List Word) :=
  match step (load ws 0 s) with
  | .next t => some (f t)
  | _ => none

/-- PC after one step over a one-word program at 0, with the given FL. -/
def pcAfter (w fl : Word) : Option (List Word) := after [w] { State.reset with fl := .ofWord fl } (fun t => [t.pc])

/-- The words decode to the instruction, none left over, and the instruction is well formed. -/
abbrev reads (ws : List Word) (i : Instr) : Prop := (decode ws).toOption = some (i, []) ∧ i.wf = true

/-! ### Well-formedness: an inline literal is one of −1 to 29 (30_encoding.md R87) -/

theorem test_inline_30_is_ill_formed : (Instr.set (.reg .A) (.inl 30#16)).wf = false := by decide

theorem test_inline_minus_2_is_ill_formed : (Instr.jsr (.inl 0xFFFE#16)).wf = false := by decide

theorem test_inline_ends_are_well_formed :
    (Instr.set (.reg .A) (.inl 29#16)).wf = true ∧ (Instr.int (.inl 0xFFFF#16)).wf = true := by decide

/-! ### Decoding (30_encoding.md R80 to R88, R100) -/

theorem test_decode_no_words : (match decode [] with | .error .noFirstWord => true | _ => false) = true := by decide

theorem test_decode_missing_word_a :
    (match decode [0x7C01#16] with | .error .noNextWordA => true | _ => false) = true := by decide

theorem test_decode_missing_word_b :
    (match decode [0x7FC1#16, 0x4000#16] with | .error .noNextWordB => true | _ => false) = true := by decide

/-- `SET [0x1000], 0x1234` as one number: the first word lowest, then operand `a`'s, then `b`'s. -/
theorem test_table_word_order :
    decodeTableWord 48 0x100012347FC1 = some (.set (.dir 0x1000#16) (.lit 0x1234#16)) := by decide

/-- The bits above `nbits` are 0. -/
theorem test_table_word_short : decodeTableWord 16 0xFFFF7C20 = some (.jsr (.lit 0x0000#16)) := by decide

theorem test_fetch_word_runs :
    (match step (State.reset.withFetchWord 48 0x100012347FC1) with
      | .next t => some [t.mem.readWord 0x1000, t.pc] | _ => none) = some [0x1234#16, 0x0003#16] := by decide

/-- aaaaaabbbbbooooo, 30_encoding.md R100 opcodes 0x01 to 0x09. -/
theorem test_decode_arithmetic :
    reads [0b0100011000000001#16, 0x0002#16, 0x0001#16] (.set (.idx .A 0x0001#16) (.idx .B 0x0002#16)) ∧
    reads [0b0000010000000010#16] (.add (.reg .A) (.reg .B)) ∧
    reads [0b0010101101100011#16] (.sub .sp (.ind .C)) ∧
    reads [0b0111110001100100#16, 0x1234#16] (.mul (.reg .X) (.lit 0x1234#16)) ∧
    reads [0b1000010010000101#16] (.mli (.reg .Y) (.inl 0xFFFF#16)) ∧
    reads [0b1111110010100110#16] (.div (.reg .Z) (.inl 0x001D#16)) ∧
    reads [0b0110000011000111#16] (.dvi (.reg .I) .pop) ∧
    reads [0b0110010011101000#16] (.mod (.reg .J) .peek) ∧
    reads [0b0110101100001001#16, 0x0003#16] (.mdi .push (.pick 0x0003#16)) := by decide

/-- aaaaaabbbbbooooo, opcodes 0x0A to 0x0F. -/
theorem test_decode_bitwise :
    reads [0b0110111100101010#16] (.and .peek .sp) ∧
    reads [0b0111001101001011#16, 0x0005#16] (.bor (.pick 0x0005#16) .pc) ∧
    reads [0b0111011110001100#16] (.xor .pc .ex) ∧
    reads [0b1000001110101101#16] (.shr .ex .fl) ∧
    reads [0b0111101111101110#16, 0x8000#16] (.asr .fl (.dir 0x8000#16)) ∧
    reads [0b0001111111001111#16, 0x1000#16] (.shl (.dir 0x1000#16) (.reg .J)) := by decide

/-- aaaaaabbbbbooooo, opcodes 0x10 to 0x17. -/
theorem test_decode_skip :
    reads [0b1000100000010000#16] (.ifb (.reg .A) (.inl 0x0000#16)) ∧
    reads [0b1000110111010001#16] (.ifc (.ind .I) (.inl 0x0001#16)) ∧
    reads [0b0000000000010010#16] (.ife (.reg .A) (.reg .A)) ∧
    reads [0b0000011011110011#16, 0xFFFF#16] (.ifn (.idx .J 0xFFFF#16) (.reg .B)) ∧
    reads [0b0000100000010100#16] (.ifg (.reg .A) (.reg .C)) ∧
    reads [0b0000110000010101#16] (.ifa (.reg .A) (.reg .X)) ∧
    reads [0b0001000000010110#16] (.ifl (.reg .A) (.reg .Y)) ∧
    reads [0b0001010000010111#16] (.ifu (.reg .A) (.reg .Z)) := by decide

/-- aaaaaabbbbbooooo, opcodes 0x18 to 0x1B. -/
theorem test_decode_extended :
    reads [0b0001000000111000#16] (.adc (.reg .B) (.reg .Y)) ∧
    reads [0b0101010000111001#16, 0x0007#16] (.sbb (.reg .B) (.idx .Z 0x0007#16)) ∧
    reads [0b1000100000011010#16] (.cmp (.reg .A) (.inl 0x0000#16)) ∧
    reads [0b0111100000011011#16, 0xE000#16] (.tst (.reg .A) (.dir 0xE000#16)) := by decide

/-- aaaaaabbbbbooooo, opcodes 0x1C and 0x1D. -/
theorem test_decode_fixed_point :
    reads [0b0000010000011100#16] (.fxmul (.reg .A) (.reg .B)) ∧
    reads [0b0000010000011101#16] (.fxdiv (.reg .A) (.reg .B)) := by decide

/-- aaaaaabbbbbooooo, opcodes 0x1E and 0x1F. -/
theorem test_decode_bytes_and_reserved :
    reads [0b0111110000111110#16, 0x0100#16] (.ldb (.reg .B) (.lit 0x0100#16)) ∧
    reads [0b0111111111011111#16, 0x1111#16, 0x2222#16] (.reserved1F (.dir 0x2222#16) (.lit 0x1111#16)) := by decide

/-- aaaaaasssss00000, sub-opcodes 0x01 to 0x08. -/
theorem test_decode_calls_and_jumps :
    reads [0b0111110000100000#16, 0x0200#16] (.jsr (.lit 0x0200#16)) ∧
    reads [0b1000010001000000#16] (.bsr (.inl 0xFFFF#16)) ∧
    reads [0b0000000001100000#16] (.jz (.reg .A)) ∧
    reads [0b0010000010000000#16] (.jnz (.ind .A)) ∧
    reads [0b1010010010100000#16] (.jc (.inl 0x0007#16)) ∧
    reads [0b1010010011000000#16] (.jnc (.inl 0x0007#16)) ∧
    reads [0b1010010011100000#16] (.js (.inl 0x0007#16)) ∧
    reads [0b1010010100000000#16] (.jns (.inl 0x0007#16)) := by decide

/-- aaaaaasssss00000, sub-opcodes 0x09 to 0x0F. -/
theorem test_decode_jumps_after_compare :
    reads [0b1010010100100000#16] (.jo (.inl 0x0007#16)) ∧
    reads [0b1010010101000000#16] (.ja (.inl 0x0007#16)) ∧
    reads [0b1010010101100000#16] (.jbe (.inl 0x0007#16)) ∧
    reads [0b0111100110000000#16, 0x0040#16] (.jge (.dir 0x0040#16)) ∧
    reads [0b1010010110100000#16] (.jl (.inl 0x0007#16)) ∧
    reads [0b0110000111000000#16] (.jg .pop) ∧
    reads [0b1010010111100000#16] (.jle (.inl 0x0007#16)) := by decide

/-- aaaaaasssss00000, sub-opcodes 0x10 to 0x14. -/
theorem test_decode_interrupts :
    reads [0b1001111000000000#16] (.int (.inl 0x0005#16)) ∧
    reads [0b0000001000100000#16] (.iag (.reg .A)) ∧
    reads [0b0111111001000000#16, 0x0400#16] (.ias (.lit 0x0400#16)) ∧
    reads [0b0000001001100000#16] (.rfi (.reg .A)) ∧
    reads [0b1000111010000000#16] (.iaq (.inl 0x0001#16)) := by decide

/-- aaaaaasssss00000, sub-opcodes 0x18 to 0x1B and 0x1F. -/
theorem test_decode_unary_and_store_byte :
    reads [0b0111011100000000#16] (.neg .ex) ∧
    reads [0b1000001100100000#16] (.not .fl) ∧
    reads [0b0000001101000000#16] (.sxb (.reg .A)) ∧
    reads [0b0110111101100000#16] (.swp .sp) ∧
    reads [0b0000111111100000#16] (.stb (.reg .X)) := by decide

/-- aaaaaasssss00000, sub-opcodes 0x00, 0x15 to 0x17, 0x1C to 0x1E. -/
theorem test_decode_system :
    reads [0b0000000000000000#16] (.nop (.reg .A)) ∧
    reads [0b0000001010100000#16] (.reserved15 (.reg .A)) ∧
    reads [0b0111111011000000#16, 0xABCD#16] (.reserved16 (.lit 0xABCD#16)) ∧
    reads [0b0000001011100000#16] (.reserved17 (.reg .A)) ∧
    reads [0b0000001110000000#16] (.bcopy (.reg .A)) ∧
    reads [0b0000001110100000#16] (.brk (.reg .A)) ∧
    reads [0b0000001111000000#16] (.hlt (.reg .A)) := by decide

/-! ### One step of each instruction (spec/96_derived_vectors.md, by its ids) -/

/-- OP12: `SET PEEK, POP`. -/
theorem test_set_peek_pop :
    after [0x6321#16]
      ({ State.reset with sp := 0x7FFF#16, mem := cells [(0x7FFF, 0xAAAA#16), (0x8000, 0x0000#16)]
                           })
      (fun t => [t.mem.readWord 0x8000, t.sp]) = some [0xAAAA#16, 0x8000#16] := by decide

/-- AS3: `ADD A, B`. -/
theorem test_add_carry_overflow :
    after [0x0402#16]
      ({ State.reset with regs := ⟨0x8000#16, 0x8000#16, 0, 0, 0, 0, 0, 0⟩ })
      (fun t => [t.reg .A, t.ex, t.fl.toWord]) = some [0x0000#16, 0x0001#16, 0x000B#16] := by decide

/-- AS14: `SUB A, B`. -/
theorem test_sub_overflow_borrow :
    after [0x0403#16]
      ({ State.reset with regs := ⟨0x7FFF#16, 0xFFFF#16, 0, 0, 0, 0, 0, 0⟩ })
      (fun t => [t.reg .A, t.ex, t.fl.toWord]) = some [0x8000#16, 0xFFFF#16, 0x000E#16] := by decide

/-- MD2: `MUL A, B`. -/
theorem test_mul_wide :
    after [0x0404#16]
      ({ State.reset with regs := ⟨0xFFFF#16, 0xFFFF#16, 0, 0, 0, 0, 0, 0⟩ })
      (fun t => [t.reg .A, t.ex, t.fl.toWord]) = some [0x0001#16, 0xFFFE#16, 0x0002#16] := by decide

/-- MD7: `MLI A, B`. -/
theorem test_mli_min :
    after [0x0405#16]
      ({ State.reset with regs := ⟨0x8000#16, 0x8000#16, 0, 0, 0, 0, 0, 0⟩ })
      (fun t => [t.reg .A, t.ex, t.fl.toWord]) = some [0x0000#16, 0x4000#16, 0x000B#16] := by decide

/-- MD15: `DIV A, B`. -/
theorem test_div_by_zero :
    after [0x0406#16]
      ({ State.reset with regs := ⟨0x1234#16, 0, 0, 0, 0, 0, 0, 0⟩, ex := 0x7777#16, fl := .ofWord
                           0x000E#16 })
      (fun t => [t.reg .A, t.ex, t.fl.toWord]) = some [0x0000#16, 0x0000#16, 0x0001#16] := by decide

/-- MD12: `DIV A, B`. -/
theorem test_div_fraction :
    after [0x0406#16]
      ({ State.reset with regs := ⟨0x0007#16, 0x0002#16, 0, 0, 0, 0, 0, 0⟩ })
      (fun t => [t.reg .A, t.ex]) = some [0x0003#16, 0x8000#16] := by decide

/-- MD17: `DVI A, B`. -/
theorem test_dvi_toward_zero :
    after [0x0407#16]
      ({ State.reset with regs := ⟨0xFFF9#16, 0x0002#16, 0, 0, 0, 0, 0, 0⟩ })
      (fun t => [t.reg .A, t.ex, t.fl.toWord]) = some [0xFFFD#16, 0x8000#16, 0x0004#16] := by decide

/-- MD20: `DVI A, B`. -/
theorem test_dvi_min :
    after [0x0407#16]
      ({ State.reset with regs := ⟨0x8000#16, 0xFFFF#16, 0, 0, 0, 0, 0, 0⟩ })
      (fun t => [t.reg .A, t.ex, t.fl.toWord]) = some [0x8000#16, 0x0000#16, 0x0004#16] := by decide

/-- MD23: `MOD A, B`. -/
theorem test_mod_keeps_ex :
    after [0x0408#16]
      ({ State.reset with regs := ⟨0x0007#16, 0x0003#16, 0, 0, 0, 0, 0, 0⟩, ex := 0x1234#16 })
      (fun t => [t.reg .A, t.ex]) = some [0x0001#16, 0x1234#16] := by decide

/-- MD24: `MOD A, B`. -/
theorem test_mod_by_zero :
    after [0x0408#16]
      ({ State.reset with regs := ⟨0x0007#16, 0, 0, 0, 0, 0, 0, 0⟩, ex := 0x1234#16 })
      (fun t => [t.reg .A, t.ex, t.fl.toWord]) = some [0x0000#16, 0x0000#16, 0x0001#16] := by decide

/-- MD26: `MDI A, B`. -/
theorem test_mdi_sign :
    after [0x0409#16]
      ({ State.reset with regs := ⟨0xFFF9#16, 0x0003#16, 0, 0, 0, 0, 0, 0⟩, ex := 0x1234#16 })
      (fun t => [t.reg .A, t.ex, t.fl.toWord]) = some [0xFFFF#16, 0x1234#16, 0x0004#16] := by decide

/-- BW1: `AND A, B`. -/
theorem test_and :
    after [0x040A#16]
      ({ State.reset with regs := ⟨0xF0F0#16, 0x8FF0#16, 0, 0, 0, 0, 0, 0⟩, ex := 0x0003#16, fl :=
                           .ofWord 0x000A#16 })
      (fun t => [t.reg .A, t.ex, t.fl.toWord]) = some [0x80F0#16, 0x0003#16, 0x0004#16] := by decide

/-- BW3: `BOR A, B`. -/
theorem test_bor :
    after [0x040B#16]
      ({ State.reset with regs := ⟨0x00F0#16, 0x0F00#16, 0, 0, 0, 0, 0, 0⟩ })
      (fun t => [t.reg .A, t.fl.toWord]) = some [0x0FF0#16, 0x0000#16] := by decide

/-- BW5: `XOR A, B`. -/
theorem test_xor :
    after [0x040C#16]
      ({ State.reset with regs := ⟨0xFFFF#16, 0x00FF#16, 0, 0, 0, 0, 0, 0⟩ })
      (fun t => [t.reg .A, t.fl.toWord]) = some [0xFF00#16, 0x0004#16] := by decide

/-- SH4: `SHR A, 15`. -/
theorem test_shr_15 :
    after [0xC40D#16]
      ({ State.reset with regs := ⟨0x8001#16, 0, 0, 0, 0, 0, 0, 0⟩ })
      (fun t => [t.reg .A, t.ex, t.fl.toWord]) = some [0x0001#16, 0x0002#16, 0x0000#16] := by decide

/-- SH5: `SHR A, 16`. -/
theorem test_shr_16 :
    after [0xC80D#16]
      ({ State.reset with regs := ⟨0x8001#16, 0, 0, 0, 0, 0, 0, 0⟩ })
      (fun t => [t.reg .A, t.ex, t.fl.toWord]) = some [0x0000#16, 0x8001#16, 0x0001#16] := by decide

/-- SH11: `ASR A, 1`. -/
theorem test_asr_1 :
    after [0x8C0E#16]
      ({ State.reset with regs := ⟨0x8001#16, 0, 0, 0, 0, 0, 0, 0⟩ })
      (fun t => [t.reg .A, t.ex, t.fl.toWord]) = some [0xC000#16, 0x8000#16, 0x0006#16] := by decide

/-- SH14: `ASR A, 16`. -/
theorem test_asr_16 :
    after [0xC80E#16]
      ({ State.reset with regs := ⟨0x8001#16, 0, 0, 0, 0, 0, 0, 0⟩ })
      (fun t => [t.reg .A, t.ex, t.fl.toWord]) = some [0xFFFF#16, 0x8001#16, 0x0006#16] := by decide

/-- SH22: `SHL A, 15`. -/
theorem test_shl_15 :
    after [0xC40F#16]
      ({ State.reset with regs := ⟨0x8001#16, 0, 0, 0, 0, 0, 0, 0⟩ })
      (fun t => [t.reg .A, t.ex, t.fl.toWord]) = some [0x8000#16, 0x4000#16, 0x0004#16] := by decide

/-- SH23: `SHL A, 16`. -/
theorem test_shl_16 :
    after [0xC80F#16]
      ({ State.reset with regs := ⟨0x8001#16, 0, 0, 0, 0, 0, 0, 0⟩ })
      (fun t => [t.reg .A, t.ex, t.fl.toWord]) = some [0x0000#16, 0x8001#16, 0x0001#16] := by decide

/-- IF2: `IFB A, 1`. -/
theorem test_ifb_false :
    after [0x8C10#16, 0x8C21#16, 0x9041#16]
      ({ State.reset with regs := ⟨0x0002#16, 0, 0, 0, 0, 0, 0, 0⟩ })
      (fun t => [t.pc]) = some [0x0002#16] := by decide

/-- IF4: `IFC A, 1`. -/
theorem test_ifc_false :
    after [0x8C11#16, 0x8C21#16, 0x9041#16]
      ({ State.reset with regs := ⟨0x0003#16, 0, 0, 0, 0, 0, 0, 0⟩ })
      (fun t => [t.pc]) = some [0x0002#16] := by decide

/-- IF18: `IFE A, 0`. -/
theorem test_ife_skips_three_words :
    after [0x8812#16, 0x7BC1#16, 0x2000#16, 0x1000#16, 0x8C62#16]
      ({ State.reset with regs := ⟨0x0001#16, 0, 0, 0, 0, 0, 0, 0⟩ })
      (fun t => [t.pc]) = some [0x0004#16] := by decide

/-- IF7: `IFN A, 0`. -/
theorem test_ifn_false :
    after [0x8813#16, 0x8C21#16, 0x9041#16]
      (State.reset)
      (fun t => [t.pc]) = some [0x0002#16] := by decide

/-- IF19: `IFG A, 0`. -/
theorem test_ifg_chain :
    after [0x8814#16, 0x7C16#16, 0x0064#16, 0x8C21#16, 0x9041#16]
      (State.reset)
      (fun t => [t.pc]) = some [0x0004#16] := by decide

/-- IF11: `IFA A, 0`. -/
theorem test_ifa_signed :
    after [0x8815#16, 0x8C21#16, 0x9041#16]
      ({ State.reset with regs := ⟨0x8000#16, 0, 0, 0, 0, 0, 0, 0⟩ })
      (fun t => [t.pc]) = some [0x0002#16] := by decide

/-- IF14: `IFL A, 100`. -/
theorem test_ifl_equal :
    after [0x7C16#16, 0x0064#16, 0x8C21#16, 0x9041#16]
      ({ State.reset with regs := ⟨0x0064#16, 0, 0, 0, 0, 0, 0, 0⟩ })
      (fun t => [t.pc]) = some [0x0003#16] := by decide

/-- IF15: `IFU A, 0`. -/
theorem test_ifu_signed :
    after [0x8817#16, 0x8C21#16, 0x9041#16]
      ({ State.reset with regs := ⟨0xFFFF#16, 0, 0, 0, 0, 0, 0, 0⟩ })
      (fun t => [t.pc]) = some [0x0001#16] := by decide

/-- AS18: `ADC A, B`. -/
theorem test_adc :
    after [0x0418#16]
      ({ State.reset with regs := ⟨0xFFFF#16, 0xFFFF#16, 0, 0, 0, 0, 0, 0⟩, fl := .ofWord 0x0002#16
                           })
      (fun t => [t.reg .A, t.ex, t.fl.toWord]) = some [0xFFFF#16, 0x0001#16, 0x0006#16] := by decide

/-- AS22: `SBB A, B`. -/
theorem test_sbb :
    after [0x0419#16]
      ({ State.reset with regs := ⟨0, 0xFFFF#16, 0, 0, 0, 0, 0, 0⟩, fl := .ofWord 0x0002#16 })
      (fun t => [t.reg .A, t.ex, t.fl.toWord]) = some [0x0000#16, 0xFFFF#16, 0x0003#16] := by decide

/-- AS25: `CMP A, B`. -/
theorem test_cmp :
    after [0x041A#16]
      ({ State.reset with regs := ⟨0, 0xFFFF#16, 0, 0, 0, 0, 0, 0⟩ })
      (fun t => [t.reg .A, t.ex, t.fl.toWord]) = some [0x0000#16, 0x0000#16, 0x0002#16] := by decide

/-- BW7: `TST A, B`. -/
theorem test_tst :
    after [0x041B#16]
      ({ State.reset with regs := ⟨0x8001#16, 0x8000#16, 0, 0, 0, 0, 0, 0⟩, fl := .ofWord 0x000A#16
                           })
      (fun t => [t.reg .A, t.fl.toWord]) = some [0x8001#16, 0x0004#16] := by decide

/-- FX4: `FXMUL A, B`. -/
theorem test_fxmul_negative :
    after [0x041C#16]
      ({ State.reset with regs := ⟨0xFF80#16, 0x0001#16, 0, 0, 0, 0, 0, 0⟩ })
      (fun t => [t.reg .A, t.ex, t.fl.toWord]) = some [0xFFFF#16, 0x0080#16, 0x0006#16] := by decide

/-- FX6: `FXMUL A, B`. -/
theorem test_fxmul_overflow :
    after [0x041C#16]
      ({ State.reset with regs := ⟨0x8000#16, 0x8000#16, 0, 0, 0, 0, 0, 0⟩ })
      (fun t => [t.reg .A, t.fl.toWord]) = some [0x0000#16, 0x0009#16] := by decide

/-- FX11: `FXDIV A, B`. -/
theorem test_fxdiv_negative :
    after [0x041D#16]
      ({ State.reset with regs := ⟨0xFF00#16, 0x0300#16, 0, 0, 0, 0, 0, 0⟩ })
      (fun t => [t.reg .A, t.ex, t.fl.toWord]) = some [0xFFAB#16, 0xFF00#16, 0x0004#16] := by decide

/-- BY2: `LDB B, 0x101`. -/
theorem test_ldb_odd :
    after [0x7C3E#16, 0x0101#16]
      ({ State.reset with fl := .ofWord 0x000F#16, mem := cells [(0x0080, 0x4869#16)] })
      (fun t => [t.reg .B, t.fl.toWord]) = some [0x0069#16, 0x000A#16] := by decide

/-- BY4: `LDB B, X`. -/
theorem test_ldb_last_byte :
    after [0x0C3E#16]
      ({ State.reset with regs := ⟨0, 0, 0, 0xFFFF#16, 0, 0, 0, 0⟩, mem := cells [(0x7FFF,
                           0x12AB#16)] })
      (fun t => [t.reg .B]) = some [0x00AB#16] := by decide

/-- BK17: `(reserved 0x1F) PUSH, POP`. -/
theorem test_reserved1F :
    after [0x631F#16]
      ({ State.reset with sp := 0x8000#16, mem := cells [(0x8000, 0x5555#16)] })
      (fun t => [t.sp, t.pc]) = some [0x8000#16, 0x0001#16] := by decide

/-- BK12: `NOP POP`. -/
theorem test_nop_pop :
    after [0x6000#16]
      ({ State.reset with sp := 0x7FFF#16 })
      (fun t => [t.sp, t.pc]) = some [0x8000#16, 0x0001#16] := by decide

/-- JP1: `JSR 0x0200`. -/
theorem test_jsr :
    after [0x7C20#16, 0x0200#16]
      ({ State.reset with pc := 0x0010#16, sp := 0x8000#16 })
      (fun t => [t.pc, t.sp, t.mem.readWord 0x7FFF]) = some [0x0200#16, 0x7FFF#16, 0x0012#16] := by decide

/-- JP3: `JSR POP`. -/
theorem test_jsr_pop :
    after [0x6020#16]
      ({ State.reset with pc := 0x0010#16, sp := 0x7FFF#16, mem := cells [(0x7FFF, 0x0300#16)] })
      (fun t => [t.pc, t.sp, t.mem.readWord 0x7FFF]) = some [0x0300#16, 0x7FFF#16, 0x0011#16] := by decide

/-- JP7: `BSR nw:0xFFFE`. -/
theorem test_bsr_back :
    after [0x7C40#16, 0xFFFE#16]
      ({ State.reset with pc := 0x0100#16, sp := 0x8000#16 })
      (fun t => [t.pc, t.mem.readWord 0x7FFF]) = some [0x0100#16, 0x0102#16] := by decide

/-- JP9: `JZ 0x0300`. -/
theorem test_jz_taken :
    after [0x7C60#16, 0x0300#16]
      ({ State.reset with fl := .ofWord 0x0001#16 })
      (fun t => [t.pc]) = some [0x0300#16] := by decide

/-- JP11: `JZ POP`. -/
theorem test_jz_pop_not_taken :
    after [0x6060#16]
      ({ State.reset with sp := 0x7FFF#16, mem := cells [(0x7FFF, 0x0300#16)] })
      (fun t => [t.pc, t.sp]) = some [0x0001#16, 0x7FFF#16] := by decide

/-- JP13: `JNZ A`. -/
theorem test_jnz :
    after [0x0080#16]
      ({ State.reset with regs := ⟨0x0123#16, 0, 0, 0, 0, 0, 0, 0⟩ })
      (fun t => [t.pc]) = some [0x0123#16] := by decide

/-- JP14: `JGE [0x0040]`. -/
theorem test_jge :
    after [0x7980#16, 0x0040#16]
      ({ State.reset with fl := .ofWord 0x000C#16, mem := cells [(0x0040, 0x0500#16)] })
      (fun t => [t.pc]) = some [0x0500#16] := by decide

/-- JP15: `JL [0x0040]`. -/
theorem test_jl :
    after [0x79A0#16, 0x0040#16]
      ({ State.reset with fl := .ofWord 0x000C#16, mem := cells [(0x0040, 0x0500#16)] })
      (fun t => [t.pc]) = some [0x0002#16] := by decide

/-- IN1: `INT 5`. -/
theorem test_int_dispatch :
    after [0x9E00#16]
      ({ State.reset with regs := ⟨0x1234#16, 0, 0, 0, 0, 0, 0, 0⟩, pc := 0x0020#16, sp :=
                           0x8000#16, ia := 0x0400#16 })
      (fun t => [t.reg .A, t.pc, t.sp, t.mem.readWord 0x7FFE, t.mem.readWord 0x7FFF]) = some [0x0005#16, 0x0400#16, 0x7FFE#16, 0x1234#16, 0x0021#16] := by decide

/-- IN2: `INT 5`. -/
theorem test_int_discarded :
    after [0x9E00#16]
      ({ State.reset with regs := ⟨0x1234#16, 0, 0, 0, 0, 0, 0, 0⟩, pc := 0x0020#16, sp :=
                           0x8000#16 })
      (fun t => [t.pc, t.sp]) = some [0x0021#16, 0x8000#16] := by decide

/-- IN5: `IAG A`. -/
theorem test_iag :
    after [0x0220#16]
      ({ State.reset with ia := 0x0400#16 })
      (fun t => [t.reg .A]) = some [0x0400#16] := by decide

/-- IN7: `IAS 0x0400`. -/
theorem test_ias :
    after [0x7E40#16, 0x0400#16]
      (State.reset)
      (fun t => [t.ia, t.pc]) = some [0x0400#16, 0x0002#16] := by decide

/-- IN9: `RFI`. -/
theorem test_rfi :
    after [0x0260#16]
      ({ State.reset with regs := ⟨0x0005#16, 0, 0, 0, 0, 0, 0, 0⟩, pc := 0x0410#16, sp :=
                           0x7FFE#16, ia := 0x0400#16, iq := true, mem := cells [(0x7FFE, 0x1234#16), (0x7FFF,
                           0x0021#16)] })
      (fun t => [t.reg .A, t.pc, t.sp]) = some [0x1234#16, 0x0021#16, 0x8000#16] := by decide

/-- IN10: `RFI`. -/
theorem test_rfi_next_message :
    after [0x0260#16]
      ({ State.reset with regs := ⟨0x0005#16, 0, 0, 0, 0, 0, 0, 0⟩, pc := 0x0410#16, sp :=
                           0x7FFE#16, ia := 0x0400#16, iq := true, queue := [0x0009#16, 0x000A#16], mem := cells
                           [(0x7FFE, 0x1234#16), (0x7FFF, 0x0021#16)] })
      (fun t => [t.reg .A, t.pc, t.mem.readWord 0x7FFF]) = some [0x0009#16, 0x0400#16, 0x0021#16] := by decide

/-- IN14: `IAQ 0`. -/
theorem test_iaq_drains :
    after [0x8A80#16]
      ({ State.reset with regs := ⟨0x1111#16, 0, 0, 0, 0, 0, 0, 0⟩, sp := 0x8000#16, ia :=
                           0x0400#16, iq := true, queue := [0x0007#16, 0x0008#16] })
      (fun t => [t.reg .A, t.pc, t.mem.readWord 0x7FFE, t.mem.readWord 0x7FFF]) = some [0x0007#16, 0x0400#16, 0x1111#16, 0x0001#16] := by decide

/-- UN3: `NEG A`. -/
theorem test_neg_min :
    after [0x0300#16]
      ({ State.reset with regs := ⟨0x8000#16, 0, 0, 0, 0, 0, 0, 0⟩ })
      (fun t => [t.reg .A, t.fl.toWord]) = some [0x8000#16, 0x000E#16] := by decide

/-- UN5: `NOT A`. -/
theorem test_not :
    after [0x0320#16]
      ({ State.reset with regs := ⟨0x00FF#16, 0, 0, 0, 0, 0, 0, 0⟩, fl := .ofWord 0x000A#16 })
      (fun t => [t.reg .A, t.fl.toWord]) = some [0xFF00#16, 0x0004#16] := by decide

/-- UN7: `SXB A`. -/
theorem test_sxb :
    after [0x0340#16]
      ({ State.reset with regs := ⟨0x00F0#16, 0, 0, 0, 0, 0, 0, 0⟩, fl := .ofWord 0x000A#16 })
      (fun t => [t.reg .A, t.fl.toWord]) = some [0xFFF0#16, 0x000E#16] := by decide

/-- UN11: `SWP A`. -/
theorem test_swp :
    after [0x0360#16]
      ({ State.reset with regs := ⟨0x1234#16, 0, 0, 0, 0, 0, 0, 0⟩, fl := .ofWord 0x000F#16 })
      (fun t => [t.reg .A, t.fl.toWord]) = some [0x3412#16, 0x000F#16] := by decide

/-- BK1: `BCOPY`. -/
theorem test_bcopy_overlap :
    after [0x0380#16]
      ({ State.reset with regs := ⟨0x0100#16, 0x0101#16, 0x0003#16, 0, 0, 0, 0, 0⟩, mem := cells
                           [(0x0100, 0x0001#16), (0x0101, 0x0002#16), (0x0102, 0x0003#16), (0x0103, 0x0004#16)] })
      (fun t => [t.reg .A, t.reg .B, t.reg .C, t.mem.readWord 0x0101, t.mem.readWord 0x0103]) = some [0x0103#16, 0x0104#16, 0x0000#16, 0x0001#16, 0x0003#16] := by decide

/-- MP26: `BCOPY`. -/
theorem test_bcopy_abort :
    after [0x0380#16]
      ({ State.reset with regs := ⟨0x3FFE#16, 0x4010#16, 0x0004#16, 0, 0, 0, 0, 0⟩, pc :=
                           0x4000#16, sp := 0x8000#16, mpuBase := 0x4000#16, mpuLimit := 0x8000#16, mpuCtrl :=
                           0x0003#16, mem := cells [(0x3FFE, 0x1111#16), (0x3FFF, 0x2222#16), (0x4000, 0x0380#16),
                           (0x4001, 0x4444#16)] })
      (fun t => [t.reg .A, t.reg .B, t.reg .C]) = some [0x3FFF#16, 0x4011#16, 0x0002#16] := by decide

/-- BK9: `BRK`. -/
theorem test_brk :
    after [0x03A0#16]
      (State.reset)
      (fun t => [t.pc]) = some [0x0001#16] := by decide

/-- IN31: `HLT`. -/
theorem test_hlt_wakes :
    after [0x03C0#16]
      ({ State.reset with regs := ⟨0x00AA#16, 0, 0, 0, 0, 0, 0, 0⟩, pc := 0x0030#16, sp :=
                           0x8000#16, ia := 0x0400#16, queue := [0x0006#16] })
      (fun t => [t.reg .A, t.pc, t.sp]) = some [0x0006#16, 0x0400#16, 0x7FFE#16] := by decide

/-- BY9: `STB 0x0100`. -/
theorem test_stb_even :
    after [0x7FE0#16, 0x0100#16]
      ({ State.reset with regs := ⟨0x1248#16, 0, 0, 0, 0, 0, 0, 0⟩, mem := cells [(0x0080,
                           0xFFFF#16)] })
      (fun t => [t.mem.readWord 0x0080]) = some [0x48FF#16] := by decide

/-- BY14: `STB A`. -/
theorem test_stb_last_byte :
    after [0x03E0#16]
      ({ State.reset with regs := ⟨0xFFFF#16, 0, 0, 0, 0, 0, 0, 0⟩, mem := cells [(0x7FFF,
                           0x0000#16)] })
      (fun t => [t.mem.readWord 0x7FFF]) = some [0x00FF#16] := by decide

/-- BK21: `(reserved special 0x15), a = POP`. -/
theorem test_reserved15 :
    after [0x62A0#16]
      ({ State.reset with sp := 0x7FFF#16 })
      (fun t => [t.sp, t.pc]) = some [0x7FFF#16, 0x0001#16] := by decide

/-- BK22: `(reserved special 0x16), a = nw`. -/
theorem test_reserved16 :
    after [0x7EC0#16, 0xABCD#16]
      (State.reset)
      (fun t => [t.pc]) = some [0x0002#16] := by decide

/-- BK20: `(reserved special 0x17)`. -/
theorem test_reserved17 :
    after [0x02E0#16]
      (State.reset)
      (fun t => [t.pc]) = some [0x0001#16] := by decide

/-- MP11: `SET [0x1000], 7`. -/
theorem test_mpu_fault :
    after [0xA7C1#16, 0x1000#16]
      ({ State.reset with regs := ⟨0x00AA#16, 0, 0, 0, 0, 0, 0, 0⟩, pc := 0x4000#16, sp :=
                           0x8000#16, ia := 0x4100#16, mpuBase := 0x4000#16, mpuLimit := 0x8000#16, mpuCtrl :=
                           0x0003#16, mem := cells [(0x1000, 0x1234#16)] })
      (fun t => [t.reg .A, t.pc, t.sp, t.mem.readWord 0x7FFE, t.mem.readWord 0x7FFF]) = some [0xFFFE#16, 0x4100#16, 0x7FFE#16, 0x00AA#16, 0x4002#16] := by decide

/-- JC 7, taken and not taken, by hand from 46_subroutine_jumps.md R225. -/
theorem test_jc : (pcAfter 0xA4A0#16 0x0002#16, pcAfter 0xA4A0#16 0x000D#16) = (some [7#16], some [1#16]) := by decide

/-- JNC 7, taken and not taken, by hand from 46_subroutine_jumps.md R226. -/
theorem test_jnc : (pcAfter 0xA4C0#16 0x000D#16, pcAfter 0xA4C0#16 0x0002#16) = (some [7#16], some [1#16]) := by decide

/-- JS 7, taken and not taken, by hand from 46_subroutine_jumps.md R227. -/
theorem test_js : (pcAfter 0xA4E0#16 0x0004#16, pcAfter 0xA4E0#16 0x000B#16) = (some [7#16], some [1#16]) := by decide

/-- JNS 7, taken and not taken, by hand from 46_subroutine_jumps.md R228. -/
theorem test_jns : (pcAfter 0xA500#16 0x000B#16, pcAfter 0xA500#16 0x0004#16) = (some [7#16], some [1#16]) := by decide

/-- JO 7, taken and not taken, by hand from 46_subroutine_jumps.md R229. -/
theorem test_jo : (pcAfter 0xA520#16 0x0008#16, pcAfter 0xA520#16 0x0007#16) = (some [7#16], some [1#16]) := by decide

/-- JA 7, taken and not taken, by hand from 46_subroutine_jumps.md R230. -/
theorem test_ja : (pcAfter 0xA540#16 0x000C#16, pcAfter 0xA540#16 0x000D#16) = (some [7#16], some [1#16]) := by decide

/-- JBE 7, taken and not taken, by hand from 46_subroutine_jumps.md R231. -/
theorem test_jbe : (pcAfter 0xA560#16 0x0001#16, pcAfter 0xA560#16 0x000C#16) = (some [7#16], some [1#16]) := by decide

/-- JG 7, taken and not taken, by hand from 46_subroutine_jumps.md R234. -/
theorem test_jg : (pcAfter 0xA5C0#16 0x000C#16, pcAfter 0xA5C0#16 0x000D#16) = (some [7#16], some [1#16]) := by decide

/-- JLE 7, taken and not taken, by hand from 46_subroutine_jumps.md R235. -/
theorem test_jle : (pcAfter 0xA5E0#16 0x000D#16, pcAfter 0xA5E0#16 0x000C#16) = (some [7#16], some [1#16]) := by decide


/-! ### States that meet the statements' hypotheses, clause by clause

Each theorem names its statement; boundary values stand where a range ends. -/

/-- The MPU on in fault mode, with the region 0x4000 to 0x7FFF. -/
def guarded : State :=
  { State.reset with pc := 0x4000#16, sp := 0x8000#16, ia := 0x4100#16, mpuBase := 0x4000#16, mpuLimit := 0x8000#16,
                     mpuCtrl := 0x0003#16 }

/-- The same in silent mode. -/
def silent : State := { guarded with mpuCtrl := 0x0001#16 }

/-- All 256 places of the queue taken, IQ set. -/
def full : State := { State.reset with ia := 0x0400#16, iq := true, queue := List.replicate 256 0x0001#16 }

theorem full_tail : (full.setQueue full.queue.tail).queue.length = 255 := by
  show (List.replicate 256 (0x0001#16 : Word)).tail.length = 255
  rw [List.length_tail, List.length_replicate]

/-- The least installation: 0x4000 words of RAM. -/
def small : State := { State.reset with cfg := { Config.initial with ram := .basic } }

/-- A word to be run at 0, with an IA. -/
def ready (w : Word) : State := { State.reset with ia := 0x0400#16, mem := cells [(0, w)] }

theorem reset_plain (addr : Word) (k : Access) (h : addr.toNat < 0xE000) : plainRam addr k State.reset :=
  ⟨h, by unfold mpuViolation; rfl⟩

theorem witness_DecodeInvertsEncode : (Instr.set (.dir 0x1000#16) (.inl 29#16)).wf = true := by decide

theorem witness_EncodeInvertsDecode :
    decode [0x7FC1#16, 0x0001#16, 0x1000#16, 0xFFFF#16] = .ok (.set (.dir 0x1000#16) (.lit 1#16), [0xFFFF#16]) := rfl

/-- `[nw]` with a next-word literal: two more words, present and missing. -/
theorem witness_FirstWordDecidesLength :
    (decode [0x7FC1#16, 0x0001#16, 0x1000#16]).toOption.isSome = true ∧
    (decode [0x7FC1#16, 0x0001#16]).toOption.isSome = false ∧ lengthOf 0x7FC1#16 = 3 := by decide

/-- A one-word instruction at 0. -/
theorem witness_StepRunsDecoded :
    (ready 0xB001#16).hostStop = .running ∧ (ready 0xB001#16).halted = false ∧
    (∀ k, k < lengthOf 0xB001#16 → plainRam ((ready 0xB001#16).pc + BitVec.ofNat 16 k) .read (ready 0xB001#16)) ∧
    0xB001#16 = (ready 0xB001#16).mem.readWord (ready 0xB001#16).pc.toNat ∧
    decode ((List.range (lengthOf 0xB001#16)).map (fun k =>
      (ready 0xB001#16).mem.readWord ((ready 0xB001#16).pc + BitVec.ofNat 16 k).toNat)) =
      .ok (.set (.reg .A) (.inl 10#16), []) := by
  refine ⟨rfl, rfl, fun k hk => ?_, by decide, by rfl⟩
  have h0 : k = 0 := by
    have : lengthOf 0xB001#16 = 1 := by decide
    omega
  subst h0
  exact ⟨by decide, by decide⟩

/-- SET [nw], [A] in the registers of a device at slot 1, A naming another of its registers: four draws, in the order of
the four reads. -/
def inDevice : State :=
  { State.reset with
    pc := 0xE103#16
    regs := ⟨0xE110#16, 0, 0, 0, 0, 0, 0, 0⟩
    supply := [0x23C1#16, 0x1111#16, 0x2222#16]
    cfg := { Config.initial with devices := [(1, StandardDevice.display.device 1#16)] } }

theorem witness_StepRunsDecoded_anywhere :
    let i := Instr.set (.dir 0x2222#16) (.ind .A)
    let u := (memRead 0xE103#16 inDevice).2.setPc 0xE104#16
    let v := (readA i.operandA u).2
    inDevice.hostStop = .running ∧ inDevice.halted = false ∧ i.wf = true ∧ i.operandA.next = [] ∧
    (encode i).head? = some (memRead inDevice.pc inDevice).1 ∧ nextB i = [(memRead v.pc v).1] := by decide

/-- The operand `a` is read before `b`'s next word (00_scope.md R7, 30_encoding.md R91): RAM word 0x2222 gets 0x1111. -/
theorem test_fetch_order :
    (match step inDevice with
     | .next t => (t.mem.readWord 0x2222, t.pc, t.bus)
     | _ => (0#16, 0#16, [])) =
      (0x1111#16, 0xE105#16, [.devRead 1 4, .devRead 1 0x10, .devRead 1 3]) := by decide

/-- Each end of a run (70_reset_and_hazards.md R380), and a halt that an interrupt can still end. -/
theorem test_ends_of_run :
    ended (State.reset.setHalted true) = true ∧ ended { guarded with halted := true, iq := true } = true ∧
    ended (catastrophicHalt guarded) = true ∧ ended { guarded with halted := true } = false ∧
    ended (guarded.setHostStop .debugBreak) = false ∧ endedUnlessResumed (guarded.setHostStop .debugBreak) = true ∧
    endsRun (exec (.cmp .push (.reg .A)) guarded) = true ∧ endsRun (.next guarded) = false := by decide

/-- The word below the region. -/
theorem witness_BlockedFetchIsNop :
    ({ guarded with pc := 0x3FFF#16 } : State).hostStop = .running ∧
    ({ guarded with pc := 0x3FFF#16 } : State).halted = false ∧
    mpuViolation 0x3FFF#16 .read { guarded with pc := 0x3FFF#16 } = true := by decide

theorem witness_HaltWithoutHandlerIsForGood :
    (State.reset.setHalted true).halted = true ∧ (State.reset.setHalted true).ia = 0x0000#16 := by decide

/-- `SET A, 10` from a state that meets the invariant. -/
theorem witness_StepKeepsInvariant : Inv (ready 0xB001#16) ∧ ∃ t, step (ready 0xB001#16) = .next t :=
  ⟨⟨by decide, by decide, by decide, rfl, by decide⟩, _, rfl⟩

/-- The first and the last word of RAM. -/
theorem witness_StoreIsReadBack : plainRam 0x0000#16 .write State.reset ∧ plainRam 0xDFFF#16 .read State.reset :=
  ⟨reset_plain _ _ (by decide), reset_plain _ _ (by decide)⟩

/-- The last installed word, the first uninstalled one, and a blocked one in each mode. -/
theorem witness_ReadBelowMmio :
    (mpuViolation 0x3FFF#16 .read small = false ∧ 0x3FFF < small.cfg.ram.words) ∧
    (mpuViolation 0x4000#16 .read small = false ∧ small.cfg.ram.words ≤ 0x4000) ∧
    (mpuViolation 0x3FFF#16 .read silent = true ∧ silent.mpuCtrl.getLsbD 1 = false) ∧
    (mpuViolation 0x8000#16 .read guarded = true ∧ guarded.mpuCtrl.getLsbD 1 = true) := by decide

theorem witness_WriteBelowMmio :
    (mpuViolation 0x3FFF#16 .write small = false ∧ 0x3FFF < small.cfg.ram.words) ∧
    (mpuViolation 0xDFFF#16 .write small = false ∧ small.cfg.ram.words ≤ 0xDFFF) ∧
    (mpuViolation 0x0000#16 .write silent = true ∧ silent.mpuCtrl.getLsbD 1 = false) ∧
    (mpuViolation 0x8000#16 .write guarded = true ∧ guarded.mpuCtrl.getLsbD 1 = true) := by decide

/-- A supplied draw, an unsupplied one, and the ends of the reserved words. -/
theorem witness_ControlBlockReads :
    ({ State.reset with supply := [7#16] } : State).supply = 7#16 :: [] ∧ State.reset.supply = [] ∧
    (0xE00B ≤ (0xE00B#16).toNat ∧ (0xE00B#16).toNat ≤ 0xE0FF) ∧
    (0xE00B ≤ (0xE0FF#16).toNat ∧ (0xE0FF#16).toNat ≤ 0xE0FF) := by decide

theorem witness_ControlBlockWrites :
    (0xE000 ≤ (0xE000#16).toNat ∧ (0xE000#16).toNat ≤ 0xE0FF) ∧
    (0xE000 ≤ (0xE0FF#16).toNat ∧ (0xE0FF#16).toNat ≤ 0xE0FF) := by decide

/-- A device in slot 1 and none in slot 31; offsets 0, 1, 2, 3 and 255. -/
theorem witness_DeviceSlotAccess :
    let cfg := { Config.initial with devices := [(1, ⟨0x7349#16, 1#16, 2#16, by decide⟩)] }
    cfg.devices.lookup ((0xE1FF#16).toNat / 256 - 0xE0) = some ⟨0x7349#16, 1#16, 2#16, by decide⟩ ∧
    cfg.devices.lookup ((0xFFFF#16).toNat / 256 - 0xE0) = none ∧
    (0xE100#16).toNat % 256 = 0 ∧ (0xE101#16).toNat % 256 = 1 ∧ (0xE102#16).toNat % 256 = 2 ∧
    3 ≤ (0xE103#16).toNat % 256 ∧ 3 ≤ (0xE1FF#16).toNat % 256 ∧
    inDevice.cfg.devices.lookup StandardDevice.display.slot = some (StandardDevice.display.device 1#16) := by decide

/-- A store to the word below the region, which the MPU discards. -/
theorem witness_MpuConfinesStores :
    (∀ a, Instr.set (.dir 0x3FFF#16) (.reg .A) ≠ .bcopy a) ∧ guarded.mpuCtrl.getLsbD 0 = true ∧
    ¬(guarded.mpuBase.toNat ≤ 0x3FFF ∧ 0x3FFF < guarded.mpuLimit.toNat) ∧
    ∃ t, exec (.set (.dir 0x3FFF#16) (.reg .A)) guarded = .next t :=
  ⟨by simp, by decide, by decide, _, rfl⟩

theorem witness_DispatchTakesInterrupt :
    plainRam (guarded.sp - 1#16) .write guarded ∧ plainRam (guarded.sp - 2#16) .write guarded :=
  ⟨⟨by decide, by decide⟩, ⟨by decide, by decide⟩⟩

theorem witness_ReturnRestoresFrame :
    plainRam (guarded.sp - 1#16) .write guarded ∧ plainRam (guarded.sp - 2#16) .write guarded ∧
    plainRam (guarded.sp - 1#16) .read guarded ∧ plainRam (guarded.sp - 2#16) .read guarded :=
  ⟨⟨by decide, by decide⟩, ⟨by decide, by decide⟩, ⟨by decide, by decide⟩, ⟨by decide, by decide⟩⟩

theorem witness_ArrivalByState :
    State.reset.ia = 0x0000#16 ∧ (full.ia ≠ 0x0000#16 ∧ full.iq = true) ∧
    (guarded.ia ≠ 0x0000#16 ∧ guarded.iq = false) := by decide

/-- One place left, none left, in each mode; both wake-up parameters. -/
theorem witness_QueuePolicy :
    full.cfg.hltWakeOnQueued = false ∧
    ({ full.cfg with hltWakeOnQueued := true } : Config).hltWakeOnQueued = true ∧
    (full.setQueue full.queue.tail).queue.length = 255 ∧ 256 ≤ full.queue.length ∧
    (full.setSysIqm 1#16).sysIqm = 0x0001#16 ∧ (full.setSysIqm 2#16).sysIqm = 0x0002#16 ∧
    (full.sysIqm ≠ 0x0001#16 ∧ full.sysIqm ≠ 0x0002#16) := by
  refine ⟨rfl, rfl, ?_, ?_, rfl, rfl, by decide⟩
  · exact full_tail
  · exact (List.length_replicate (n := 256) (a := (0x0001#16 : Word))).ge

theorem witness_OverflowFaultEntry :
    plainRam (guarded.sp - 1#16) .write guarded ∧ plainRam (guarded.sp - 2#16) .write guarded :=
  witness_DispatchTakesInterrupt

/-- Two messages queued, two arriving. -/
theorem witness_BoundaryKeepsOrder :
    let s := { guarded with queue := [5#16, 6#16], arrivals := [[7#16, 8#16]] }
    s.iq = false ∧ s.ia ≠ 0x0000#16 ∧ s.queue = 5#16 :: [6#16] ∧ s.arrivals = [7#16, 8#16] :: [] ∧
    [6#16].length + [7#16, 8#16].length ≤ 256 ∧ s.mpuf = false ∧
    mpuViolation (s.sp - 1#16) .write s = false ∧ mpuViolation (s.sp - 2#16) .write s = false := by decide

/-- IQ set; an empty queue; nothing and something arriving; a message met by IA = 0; a noted violation in each case. -/
theorem witness_BoundaryKeepsOrder_rest :
    ({ guarded with iq := true }.iq = true ∧ { guarded with iq := true }.arrivals = []) ∧
    (guarded.queue = [] ∧ { guarded with arrivals := [[7#16]] }.arrivals = [7#16] :: []) ∧
    (State.reset.ia = 0x0000#16 ∧ State.reset.iq = false ∧ { State.reset with queue := [5#16] }.queue = 5#16 :: []) ∧
    (guarded.mpuf = false ∧ { guarded with mpuf := true }.mpuf = true ∧ guarded.ia ≠ 0x0000#16 ∧ guarded.iq = false ∧
      ({ guarded with mpuf := true, iq := true } : State).iq = true ∧ { State.reset with mpuf := true }.mpuf = true) := by
  decide

theorem witness_HaltedStepByState :
    let h := { guarded with halted := true }
    h.hostStop = .running ∧ h.halted = true ∧ (h.queue = [] ∧ h.arrivals = []) ∧
    ({ h with arrivals := [[]] }.arrivals = [] :: []) ∧
    (h.ia ≠ 0x0000#16 ∧ h.iq = false ∧ { h with arrivals := [[5#16]] }.arrivals = [5#16] :: []) ∧
    ({ h with iq := true }.iq = true) ∧ ({ h with queue := [5#16] }.queue = 5#16 :: []) := by decide

/-- A store, a push, a call, an interrupt, a byte store and a block copy that complete. -/
theorem witness_StoresOnlyWhereNamed :
    (∃ t, exec (.add (.dir 0x4000#16) (.reg .A)) guarded = .next t) ∧ (∃ t, exec (.set .push .pop) guarded = .next t) ∧
    (∃ t, exec (.jsr (.reg .A)) guarded = .next t) ∧ (∃ t, exec (.int (.reg .A)) guarded = .next t) ∧
    (∃ t, exec (.stb (.reg .A)) guarded = .next t) ∧ (∃ t, exec (.bcopy (.reg .A)) guarded = .next t) :=
  ⟨⟨_, rfl⟩, ⟨_, rfl⟩, ⟨_, rfl⟩, ⟨_, rfl⟩, ⟨_, rfl⟩, ⟨_, rfl⟩⟩

theorem witness_RegistersOnlyAsNamed :
    (∃ t, exec (.and (.reg .B) (.reg .A)) guarded = .next t) ∧
    ¬touchesSp (.and (.reg .B) (.reg .A)) ∧ ¬touchesEx (.and (.reg .B) (.reg .A)) :=
  ⟨⟨_, rfl⟩, by simp [touchesSp, destOf, Instr.operandA, operandB], by simp [touchesEx, destOf]⟩

theorem witness_FlagsOnlyAsNamed :
    (∃ t, exec (.set (.reg .A) (.reg .B)) guarded = .next t) ∧ ¬writesFl (.set (.reg .A) (.reg .B)) ∧
    ¬updatesAllFlags (.set (.reg .A) (.reg .B)) ∧ ¬updatesZeroSign (.set (.reg .A) (.reg .B)) ∧
    (∃ t, exec (.sxb (.reg .A)) guarded = .next t) ∧ ¬writesFl (.sxb (.reg .A)) ∧ updatesZeroSign (.sxb (.reg .A)) :=
  ⟨⟨_, rfl⟩, by simp [writesFl, destOf], by simp [updatesAllFlags], by simp [updatesZeroSign], ⟨_, rfl⟩,
   by simp [writesFl, destOf], by simp [updatesZeroSign]⟩

/-- An instruction none of the exceptions names, from a state with a violation noted. -/
theorem witness_SystemStateOnlyAsNamed :
    (∃ t, exec (.add (.reg .A) (.reg .B)) (guarded.setMpuf true) = .next t ∧ t.supply.length = 0 ∧ t.drawn = 0) ∧
    (guarded.setMpuf true).mpuf = true ∧ guarded.supply.length = 0 ∧ guarded.drawn = 0 ∧
    (∀ a, Instr.add (.reg .A) (.reg .B) ≠ .ias a) ∧ (∀ a, Instr.add (.reg .A) (.reg .B) ≠ .brk a) ∧
    (∀ a, Instr.add (.reg .A) (.reg .B) ≠ .int a ∧ Instr.add (.reg .A) (.reg .B) ≠ .rfi a ∧
      Instr.add (.reg .A) (.reg .B) ≠ .iaq a ∧ Instr.add (.reg .A) (.reg .B) ≠ .hlt a) :=
  ⟨⟨_, rfl, rfl, rfl⟩, rfl, rfl, rfl, by simp, by simp, by simp⟩

/-- The last word of RAM. -/
theorem witness_DestinationHoldsResult : plainRam 0xDFFF#16 .write State.reset ∧ plainRam 0xDFFF#16 .read State.reset :=
  ⟨reset_plain _ _ (by decide), reset_plain _ _ (by decide)⟩

/-- The results' one hypothesis: `b` is not PUSH. -/
theorem witness_AddSubResults : OpB.reg .A ≠ .push ∧ OpB.dir 0xDFFF#16 ≠ .push := by decide
theorem witness_AdcSbbResults : OpB.reg .A ≠ .push ∧ OpB.fl ≠ .push := by decide
theorem witness_CompareTestFlags : OpB.peek ≠ .push ∧ OpB.idx .J 0xFFFF#16 ≠ .push := by decide
theorem witness_MulResult : OpB.pick 0x0001#16 ≠ .push ∧ OpB.ex ≠ .push := by decide
theorem witness_MliResult : OpB.ind .X ≠ .push ∧ OpB.sp ≠ .push := by decide
theorem witness_FxmulResult : OpB.reg .A ≠ .push ∧ OpB.pc ≠ .push := by decide
theorem witness_BitwiseResults : OpB.reg .A ≠ .push ∧ OpB.fl ≠ .push := by decide
theorem witness_ShrResult : OpB.reg .A ≠ .push ∧ OpB.ex ≠ .push := by decide
theorem witness_AsrResult : OpB.reg .A ≠ .push ∧ OpB.peek ≠ .push := by decide
theorem witness_ShlResult : OpB.reg .A ≠ .push ∧ OpB.ind .A ≠ .push := by decide

/-- A divisor that is not 0, and 0. -/
theorem witness_DivModResults :
    OpB.reg .A ≠ .push ∧ (evaluate (.reg .A) (.inl 1#16) State.reset).va ≠ 0x0000#16 ∧
    (evaluate (.reg .A) (.inl 0#16) State.reset).va = 0x0000#16 := by decide

theorem witness_DviMdiResults :
    OpB.reg .A ≠ .push ∧ (evaluate (.reg .A) (.inl 0xFFFF#16) State.reset).va ≠ 0x0000#16 ∧
    (evaluate (.reg .A) (.reg .B) State.reset).va = 0x0000#16 := by decide

theorem witness_FxdivResult :
    OpB.reg .A ≠ .push ∧ (evaluate (.reg .A) (.lit 0x8000#16) State.reset).va ≠ 0x0000#16 ∧
    (evaluate (.reg .A) (.lit 0#16) State.reset).va = 0x0000#16 := by decide

theorem witness_UnaryResults : OpA.inl 5#16 ≠ .pop ∧ OpA.fl ≠ .pop := by decide

/-- The highest byte address. -/
theorem witness_StbStoresOneByte :
    plainRam (BitVec.ofNat 16 ((readA (.lit 0xFFFF#16) State.reset).1.toNat / 2)) .read
      (readA (.lit 0xFFFF#16) State.reset).2 ∧
    plainRam (BitVec.ofNat 16 ((readA (.lit 0xFFFF#16) State.reset).1.toNat / 2)) .write
      (readA (.lit 0xFFFF#16) State.reset).2 :=
  ⟨⟨by decide, by decide⟩, ⟨by decide, by decide⟩⟩

/-- Each of the eight conditions holds somewhere and fails somewhere: `a` is B, `b` is A. -/
theorem witness_SkipConditions :
    OpB.reg .A ≠ .push ∧
    (let va : Word := 0x0001#16; let vb : Word := 0xFFFF#16
     (vb.getLsbD 0 = true ∧ va.getLsbD 0 = true) ∧ vb ≠ va ∧ vb.toNat > va.toNat ∧ ¬vb.toInt > va.toInt ∧
     ¬vb.toNat < va.toNat ∧ vb.toInt < va.toInt) ∧
    (let va : Word := 0x0000#16; let vb : Word := 0x0000#16
     vb &&& va = 0#16 ∧ vb = va ∧ ¬vb.toNat > va.toNat ∧ ¬vb.toInt < va.toInt) ∧
    (let va : Word := 0xFFFF#16; let vb : Word := 0x0001#16
     vb.toInt > va.toInt ∧ vb.toNat < va.toNat) := by decide

/-- Every condition of a jump holds for some flags and fails for others; the statement itself has no hypothesis. -/
theorem witness_JumpConditions :
    let z : Flags := ⟨true, true, true, true⟩
    let n : Flags := ⟨false, false, true, false⟩
    (z.z = true ∧ z.c = true ∧ z.s = true ∧ z.o = true ∧ z.s = z.o) ∧
    (n.z = false ∧ n.c = false ∧ n.s ≠ n.o) ∧
    (⟨false, false, false, false⟩ : Flags).s = false := by decide

theorem witness_JumpsAfterCompare : ∃ t, exec (.cmp (.reg .A) (.inl 0xFFFF#16)) State.reset = .next t := ⟨_, rfl⟩

theorem witness_CallsPushReturnAddress :
    plainRam (spAfterA (.lit 0x0200#16) guarded.sp - 1#16) .write (readA (.lit 0x0200#16) guarded).2 :=
  ⟨by decide, by decide⟩

theorem witness_IntPresentsMessage :
    State.reset.ia = 0x0000#16 ∧ (guarded.ia ≠ 0x0000#16 ∧ guarded.iq = false) ∧
    ((full.setQueue full.queue.tail).ia ≠ 0x0000#16 ∧ (full.setQueue full.queue.tail).iq = true ∧
      (full.setQueue full.queue.tail).queue.length < 256 ∧ (full.setQueue full.queue.tail).halted = false) ∧
    (full.ia ≠ 0x0000#16 ∧ full.iq = true) := by
  refine ⟨rfl, by decide, ⟨by decide, rfl, ?_, rfl⟩, by decide⟩
  exact full_tail.trans_lt (by omega)

theorem witness_HandlerRegisterInstructions : OpA.reg .A ≠ .pop ∧ OpA.inl 0#16 ≠ .pop := by decide

theorem witness_RfiPopsFrame :
    plainRam (0x7FFE#16) .read { guarded with sp := 0x7FFE#16 } ∧
    plainRam (0x7FFE#16 + 1#16) .read { guarded with sp := 0x7FFE#16 } :=
  ⟨⟨by decide, by decide⟩, ⟨by decide, by decide⟩⟩

/-- Two words that overlap, up to the last word of RAM. -/
theorem witness_BcopyCopiesBlock :
    let s := { State.reset with regs := ⟨0xDFFD#16, 0xDFFE#16, 2#16, 0, 0, 0, 0, 0⟩ }
    (∀ k, k < (s.reg .C).toNat → (s.reg .A).toNat + k < 0xE000 ∧ (s.reg .B).toNat + k < 0xE000) ∧
    s.mpuCtrl.getLsbD 1 = false := by
  refine ⟨fun k hk => ?_, by decide⟩
  have h2 : k < 2 := hk
  interval_cases k <;> decide

/-- In silent mode: a word read outside the region, a word written outside it, and one that is neither. -/
theorem witness_BcopyCopiesBlock_silent :
    let s := { silent with regs := ⟨0x3FFF#16, 0x7FFE#16, 3#16, 0, 0, 0, 0, 0⟩ }
    s.mpuCtrl.getLsbD 1 = false ∧
    mpuViolation 0x3FFF#16 .read s = true ∧ plainRam (0x7FFE#16) .write s ∧
    plainRam (0x4000#16) .read s ∧ plainRam (0x7FFF#16) .write s ∧ mpuViolation 0x8000#16 .write s = true := by
  refine ⟨by decide, by decide, ⟨by decide, by decide⟩, ⟨by decide, by decide⟩, ⟨by decide, by decide⟩, by decide⟩

/-- A copy into the MMIO window and past the end of the address space. -/
theorem witness_BcopyCopiesBlock_anywhere :
    let s := { State.reset with regs := ⟨0xE100#16, 0xFFFF#16, 2#16, 0, 0, 0, 0, 0⟩ }
    s.mpuCtrl.getLsbD 1 = false ∧
    ∀ k, k < (s.reg .C).toNat → s.reg .B + BitVec.ofNat 16 k ≠ 0xE008#16 := by
  refine ⟨by decide, fun k hk => ?_⟩
  have h2 : k < 2 := hk
  interval_cases k <;> decide

/-- A forward copy that ends on a read at the region's end, and a backward one that ends on a write there. -/
theorem witness_BcopyStopsAtViolation :
    (let s := { guarded with regs := ⟨0x7FFF#16, 0x7FFE#16, 2#16, 0, 0, 0, 0, 0⟩ }
     s.mpuCtrl.getLsbD 1 = true ∧ 1 < (s.reg .C).toNat ∧ (s.reg .B).toNat ≤ (s.reg .A).toNat ∧
     (s.reg .A).toNat + (s.reg .C).toNat ≤ 65536 ∧ (s.reg .B).toNat + (s.reg .C).toNat ≤ 65536 ∧
     mpuViolation (s.reg .A + BitVec.ofNat 16 1) .read s = true ∧
     (∀ k, k < 1 → plainRam (s.reg .A + BitVec.ofNat 16 k) .read s ∧
       plainRam (s.reg .B + BitVec.ofNat 16 k) .write s)) ∧
    (let s := { guarded with regs := ⟨0x7FFD#16, 0x7FFE#16, 3#16, 0, 0, 0, 0, 0⟩ }
     s.mpuCtrl.getLsbD 1 = true ∧ 2 < (s.reg .C).toNat ∧ (s.reg .A).toNat < (s.reg .B).toNat ∧
     (s.reg .A).toNat + (s.reg .C).toNat ≤ 65536 ∧ (s.reg .B).toNat + (s.reg .C).toNat ≤ 65536 ∧
     (plainRam (s.reg .A + BitVec.ofNat 16 2) .read s ∧
       mpuViolation (s.reg .B + BitVec.ofNat 16 2) .write s = true) ∧
     (∀ k, 2 < k → k < 3 → plainRam (s.reg .A + BitVec.ofNat 16 k) .read s ∧
       plainRam (s.reg .B + BitVec.ofNat 16 k) .write s)) := by
  refine ⟨⟨by decide, by decide, by decide, by decide, by decide, by decide, fun k hk => ?_⟩,
    ⟨by decide, by decide, by decide, by decide, by decide, ⟨⟨by decide, by decide⟩, by decide⟩, fun k h1 h2 => ?_⟩⟩
  · have : k = 0 := by omega
    subst this
    exact ⟨⟨by decide, by decide⟩, ⟨by decide, by decide⟩⟩
  · omega

theorem witness_IdleInstructions :
    State.reset.cfg.debuggerAttached = false ∧
    ({ Config.initial with debuggerAttached := true } : Config).debuggerAttached = true := by decide

end Sys2Proof.Tests
end

-- The operand tables of 30_encoding.md R87 to R92, form by form.
section
namespace Sys2Proof.Proofs.OperandTables

open Sys2Proof Sys2Proof.Machine

/-- The read at PC may draw, reach the bus or note a violation, but it leaves PC: PC moves on from where it stood
(30_encoding.md R85). -/
theorem fetchNext_eq (s : State) : fetchNext s = (memRead s.pc s).2.setPc (s.pc + 1#16) := by
  have hpc : (memRead s.pc s).2.pc = s.pc := (memRead_envStep s.pc s).pc
  rw [fetchNext, advancePc, hpc]

/-! ### Operand `a` as a source (30_encoding.md R87, R90, R91)

`readA` loads from what `locA` names in the state `locA` leaves, so PC and SP have moved before the memory read. -/

section ReadA
variable (s : State) (r : Reg) (nw : Word)

@[simp] theorem readA_reg : readA (.reg r) s = (s.reg r, s) := rfl
@[simp] theorem readA_ind : readA (.ind r) s = memRead (s.reg r) s := rfl
@[simp] theorem readA_idx : readA (.idx r nw) s = memRead (s.reg r + nw) (s.setPc (s.pc + 1#16)) := rfl
@[simp] theorem readA_pop : readA .pop s = memRead s.sp (s.setSp (s.sp + 1#16)) := rfl
@[simp] theorem readA_peek : readA .peek s = memRead s.sp s := rfl
@[simp] theorem readA_pick : readA (.pick nw) s = memRead (s.sp + nw) (s.setPc (s.pc + 1#16)) := rfl
@[simp] theorem readA_sp : readA .sp s = (s.sp, s) := rfl
@[simp] theorem readA_pc : readA .pc s = (s.pc, s) := rfl
@[simp] theorem readA_ex : readA .ex s = (s.ex, s) := rfl
@[simp] theorem readA_fl : readA .fl s = (s.fl.toWord, s) := rfl
@[simp] theorem readA_dir : readA (.dir nw) s = memRead nw (s.setPc (s.pc + 1#16)) := rfl
@[simp] theorem readA_lit : readA (.lit nw) s = (nw, s.setPc (s.pc + 1#16)) := rfl
@[simp] theorem readA_inl : readA (.inl nw) s = (nw, s) := rfl

end ReadA

/-! ### The location operand `b` names (30_encoding.md R88, R92)

A form with a next word fetches it here, so its effect is `fetchNext`'s. -/

section LocB
variable (s : State) (r : Reg) (nw : Word)

@[simp] theorem locB_reg : locB (.reg r) s = (.reg r, s) := rfl
@[simp] theorem locB_ind : locB (.ind r) s = (.mem (s.reg r), s) := rfl
@[simp] theorem locB_push : locB .push s = (.memPush (s.sp - 1#16), s.setSp (s.sp - 1#16)) := rfl
@[simp] theorem locB_peek : locB .peek s = (.mem s.sp, s) := rfl
@[simp] theorem locB_sp : locB .sp s = (.sp, s) := rfl
@[simp] theorem locB_pc : locB .pc s = (.pc, s) := rfl
@[simp] theorem locB_ex : locB .ex s = (.ex, s) := rfl
@[simp] theorem locB_fl : locB .fl s = (.fl, s) := rfl

@[simp] theorem locB_idx :
    locB (.idx r nw) s = (.mem (s.reg r + nw), (memRead s.pc s).2.setPc (s.pc + 1#16)) := by
  rw [locB, fetchNext_eq]

@[simp] theorem locB_pick :
    locB (.pick nw) s = (.mem (s.sp + nw), (memRead s.pc s).2.setPc (s.pc + 1#16)) := by
  rw [locB, fetchNext_eq]

@[simp] theorem locB_dir : locB (.dir nw) s = (.mem nw, (memRead s.pc s).2.setPc (s.pc + 1#16)) := by
  rw [locB, fetchNext_eq]

end LocB

/-- Settles O30: the rows of the two operand tables, of which only `b`'s three forms with a next word need an argument,
that the fetch leaves PC for `fetchNext` to move (`fetchNext_eq`). -/
theorem operandForms : Obligations.OperandForms := fun s r nw =>
  ⟨readA_reg s r, readA_ind s r, readA_idx s r nw, readA_pop s, readA_peek s, readA_pick s nw, readA_sp s, readA_pc s,
    readA_ex s, readA_fl s, readA_dir s nw, readA_lit s nw, readA_inl s nw,
    locB_reg s r, locB_ind s r, locB_idx s r nw, locB_push s, locB_peek s, locB_pick s nw, locB_sp s, locB_pc s,
    locB_ex s, locB_fl s, locB_dir s nw⟩

end Sys2Proof.Proofs.OperandTables
end

-- Reset and the boot copy of 70_reset_and_hazards.md R360 to R362.
section
namespace Sys2Proof.Proofs.Reset

open Sys2Proof Sys2Proof.Machine

/-- RAM that nothing has written reads 0x0000 everywhere. -/
theorem readWord_nil (w : Nat) : Memory.readWord [] w = 0x0000#16 := by
  show mkWord 0x00#8 0x00#8 = 0x0000#16
  decide

/-- The copy from word `i` on: an installed word the image reaches holds the image's word, every other word what it
held. `i` says what part of the image is still to come, so the induction is on the image. -/
theorem readWord_loadRom (ramWords w : Nat) (ws : List Word) (i : Nat) (m : Memory) :
    (loadRom ramWords i ws m).readWord w =
      if w < ramWords ∧ i ≤ w ∧ w - i < ws.length then ws.getD (w - i) 0x0000#16 else m.readWord w := by
  induction ws generalizing i m with
  | nil => simp [loadRom]
  | cons v vs ih =>
    have hother (hne : w ≠ i) : (if i < ramWords then m.writeWord i v else m).readWord w = m.readWord w := by
      split
      · rw [Memory.readWord_writeWord, if_neg hne]
      · rfl
    rw [loadRom, ih]
    obtain hlt | rfl | hgt := Nat.lt_trichotomy w i
    · rw [hother (by omega), if_neg (by omega), if_neg (by omega)]
    · by_cases hram : w < ramWords
      · simp [hram, Memory.readWord_writeWord]
      · simp [hram]
    · have hidx : w - i = w - (i + 1) + 1 := by omega
      rw [hother (by omega), hidx, List.getD_cons_succ, List.length_cons]
      exact if_congr (by omega) rfl rfl

/-- After boot an installed word holds the ROM image's word, 0x0000 beyond the image's end, and no word beyond installed
RAM holds anything (R362). -/
theorem readWord_boot (cfg : Config) (w : Nat) :
    (boot cfg).mem.readWord w = if w < cfg.ram.words then cfg.rom.getD w 0x0000#16 else 0x0000#16 := by
  show (loadRom cfg.ram.words 0 cfg.rom []).readWord w = _
  rw [readWord_loadRom, readWord_nil]
  by_cases hram : w < cfg.ram.words
  · by_cases hrom : w < cfg.rom.length
    · simp [hram, hrom]
    · simp [hrom]
  · simp [hram]

/-- With every flag clear FL reads 0x0000 (R360, 10_state.md R18). -/
theorem toWord_boot_fl (cfg : Config) : (boot cfg).fl.toWord = 0x0000#16 := by
  show Flags.toWord ⟨false, false, false, false⟩ = 0x0000#16
  decide

/-- Settles O8: RAM is the boot copy (`readWord_boot`), FL is `toWord_boot_fl`, every other clause is a field of
`boot`. -/
theorem bootGivesResetValues : Obligations.BootGivesResetValues :=
  ⟨rfl, fun cfg => ⟨fun r => by cases r <;> rfl, rfl, rfl, rfl, toWord_boot_fl cfg, rfl, rfl, rfl, rfl, rfl, rfl,
    rfl, rfl, rfl, rfl, readWord_boot cfg⟩⟩

end Sys2Proof.Proofs.Reset
end

-- What an instruction may change of the registers, the flags and the system state (10_state.md).
section
namespace Sys2Proof.Proofs.StateFrames

open Sys2Proof Sys2Proof.Machine

/-! ### Pieces of the state and the relation that composes -/

/-- The pieces of the state that the frame statements of 10_state.md speak of. -/
inductive Piece where
  | reg (r : Reg)
  | sp
  | ex
  /-- Z and S -/
  | zeroSign
  /-- C and O -/
  | carryOverflow
  | ia
  | iq
  | queue
  | halted
  | hostStop
  /-- a noted violation -/
  | mpuf
  | arrivals
  | cfg
  /-- SYS_TICKS without a draw -/
  | ticks

/-- Draws only use the supply up and count on, and SYS_TICKS moves only with one. The two orders make the relation
transitive. -/
def TicksByDraw (s t : State) : Prop :=
  t.supply.length ≤ s.supply.length ∧ s.drawn ≤ t.drawn ∧
    (t.supply.length = s.supply.length → t.drawn = s.drawn → t.sysTicks = s.sysTicks)

/-- What it is for a piece to be kept: it is as before; a noted violation is not forgotten; SYS_TICKS moves only with a
draw. -/
def Piece.kept (s t : State) : Piece → Prop
  | .reg r => t.reg r = s.reg r
  | .sp => t.sp = s.sp
  | .ex => t.ex = s.ex
  | .zeroSign => t.fl.z = s.fl.z ∧ t.fl.s = s.fl.s
  | .carryOverflow => t.fl.c = s.fl.c ∧ t.fl.o = s.fl.o
  | .ia => t.ia = s.ia
  | .iq => t.iq = s.iq
  | .queue => t.queue = s.queue
  | .halted => t.halted = s.halted
  | .hostStop => t.hostStop = s.hostStop
  | .mpuf => s.mpuf = true → t.mpuf = true
  | .arrivals => t.arrivals = s.arrivals
  | .cfg => t.cfg = s.cfg
  | .ticks => TicksByDraw s t

/-- Every piece but those `P` names is kept. -/
def ChangesOnly (P : Piece → Prop) (s t : State) : Prop := ∀ p, ¬P p → p.kept s t

theorem TicksByDraw.refl (s : State) : TicksByDraw s s := ⟨Nat.le_refl _, Nat.le_refl _, fun _ _ => rfl⟩

theorem TicksByDraw.trans {s t u : State} (h : TicksByDraw s t) (g : TicksByDraw t u) : TicksByDraw s u := by
  obtain ⟨hsupply, hdrawn, hticks⟩ := h
  obtain ⟨gsupply, gdrawn, gticks⟩ := g
  exact ⟨by omega, by omega, fun _ _ => (gticks (by omega) (by omega)).trans (hticks (by omega) (by omega))⟩

theorem Piece.kept_refl (p : Piece) (s : State) : p.kept s s := by
  cases p <;> simp [Piece.kept, TicksByDraw.refl]

theorem Piece.kept_trans {p : Piece} {s t u : State} (h : p.kept s t) (g : p.kept t u) : p.kept s u := by
  cases p with
  | zeroSign => exact ⟨g.1.trans h.1, g.2.trans h.2⟩
  | carryOverflow => exact ⟨g.1.trans h.1, g.2.trans h.2⟩
  | mpuf => exact fun hs => g (h hs)
  | ticks => exact TicksByDraw.trans h g
  | _ => exact Eq.trans g h

section Relation
variable {P Q : Piece → Prop} {s t u : State}

theorem ChangesOnly.refl (s : State) : ChangesOnly P s s := fun p _ => p.kept_refl s

theorem ChangesOnly.trans (h : ChangesOnly P s t) (g : ChangesOnly P t u) : ChangesOnly P s u :=
  fun p hp => Piece.kept_trans (h p hp) (g p hp)

theorem ChangesOnly.mono (h : ChangesOnly P s t) (hPQ : ∀ p, P p → Q p) : ChangesOnly Q s t :=
  fun p hp => h p (fun k => hp (hPQ p k))

/-- The read laws name all that a read may change but do not say that it keeps the note and the ticks. -/
theorem ChangesOnly.of_envStep (h : EnvStep s t) (hmpuf : s.mpuf = true → t.mpuf = true) (hticks : TicksByDraw s t) :
    ChangesOnly P s t := by
  intro p _
  cases p with
  | reg r => exact h.reg r
  | sp => exact h.sp
  | ex => exact h.ex
  | zeroSign => simp [Piece.kept, h.fl]
  | carryOverflow => simp [Piece.kept, h.fl]
  | ia => exact h.ia
  | iq => exact h.iq
  | queue => exact h.queue
  | halted => exact h.halted
  | hostStop => exact h.hostStop
  | mpuf => exact hmpuf
  | arrivals => exact h.arrivals
  | cfg => exact h.cfg
  | ticks => exact hticks

end Relation

/-! ### Field updates -/

section Updates
variable {P : Piece → Prop} (s : State)

theorem setReg_changesOnly {r : Reg} (h : P (.reg r)) (v : Word) : ChangesOnly P s (s.setReg r v) := by
  intro p hp
  cases p with
  | reg q => exact State.reg_setReg_ne s (fun e : q = r => hp (e ▸ h)) v
  | _ => simp [Piece.kept, TicksByDraw]

theorem setPc_changesOnly (v : Word) : ChangesOnly P s (s.setPc v) := by
  intro p _
  cases p <;> simp [Piece.kept, TicksByDraw]

theorem charge_changesOnly (n : Nat) : ChangesOnly P s (s.charge n) := by
  intro p _
  cases p <;> simp [Piece.kept, TicksByDraw]

theorem emit_changesOnly (e : BusEvent) : ChangesOnly P s (s.emit e) := by
  intro p _
  cases p <;> simp [Piece.kept, TicksByDraw]

theorem setSp_changesOnly (h : P .sp) (v : Word) : ChangesOnly P s (s.setSp v) := by
  intro p hp
  cases p with
  | sp => exact absurd h hp
  | _ => simp [Piece.kept, TicksByDraw]

theorem setEx_changesOnly (h : P .ex) (v : Word) : ChangesOnly P s (s.setEx v) := by
  intro p hp
  cases p with
  | ex => exact absurd h hp
  | _ => simp [Piece.kept, TicksByDraw]

/-- Of the two pairs of flags each is either named or keeps its values. -/
theorem setFl_changesOnly {f : Flags} (hzs : P .zeroSign ∨ f.z = s.fl.z ∧ f.s = s.fl.s)
    (hco : P .carryOverflow ∨ f.c = s.fl.c ∧ f.o = s.fl.o) : ChangesOnly P s (s.setFl f) := by
  intro p hp
  cases p with
  | zeroSign => exact hzs.resolve_left hp
  | carryOverflow => exact hco.resolve_left hp
  | _ => simp [Piece.kept, TicksByDraw]

theorem setIa_changesOnly (h : P .ia) (v : Word) : ChangesOnly P s (s.setIa v) := by
  intro p hp
  cases p with
  | ia => exact absurd h hp
  | _ => simp [Piece.kept, TicksByDraw]

theorem setIq_changesOnly (h : P .iq) (v : Bool) : ChangesOnly P s (s.setIq v) := by
  intro p hp
  cases p with
  | iq => exact absurd h hp
  | _ => simp [Piece.kept, TicksByDraw]

theorem setQueue_changesOnly (h : P .queue) (q : List Word) : ChangesOnly P s (s.setQueue q) := by
  intro p hp
  cases p with
  | queue => exact absurd h hp
  | _ => simp [Piece.kept, TicksByDraw]

theorem setHalted_changesOnly (h : P .halted) (v : Bool) : ChangesOnly P s (s.setHalted v) := by
  intro p hp
  cases p with
  | halted => exact absurd h hp
  | _ => simp [Piece.kept, TicksByDraw]

theorem setHostStop_changesOnly (h : P .hostStop) (v : HostStop) : ChangesOnly P s (s.setHostStop v) := by
  intro p hp
  cases p with
  | hostStop => exact absurd h hp
  | _ => simp [Piece.kept, TicksByDraw]

theorem setMpuf_changesOnly (h : P .mpuf) (v : Bool) : ChangesOnly P s (s.setMpuf v) := by
  intro p hp
  cases p with
  | mpuf => exact absurd h hp
  | _ => simp [Piece.kept, TicksByDraw]

end Updates

/-! ### Reads -/

section Reads
variable {P : Piece → Prop}

/-- A draw uses up a word of the supply or counts one on. -/
theorem draw_progress (s : State) :
    (draw s).2.supply.length < s.supply.length ∧ (draw s).2.drawn = s.drawn ∨
      (draw s).2.supply.length = s.supply.length ∧ s.drawn < (draw s).2.drawn := by
  unfold draw
  split
  · next v rest h => exact .inl ⟨by simp [h], rfl⟩
  · exact .inr ⟨rfl, Nat.lt_succ_self _⟩

theorem draw_mpuf (s : State) : (draw s).2.mpuf = s.mpuf := by
  unfold draw
  split <;> rfl

theorem draw_changesOnly (s : State) : ChangesOnly P s (draw s).2 :=
  .of_envStep (draw_envStep s) (fun h => (draw_mpuf s).trans h)
    ⟨by have := draw_progress s; omega, by have := draw_progress s; omega,
      fun _ _ => by have := draw_progress s; omega⟩

/-- The one operation that moves SYS_TICKS: a draw goes with it (60_exceptions.md R332, R336). -/
theorem readTicks_changesOnly (s : State) : ChangesOnly P s (readTicks s).2 := by
  have hp := draw_progress s
  have hsupply : (readTicks s).2.supply = (draw s).2.supply := rfl
  have hdrawn : (readTicks s).2.drawn = (draw s).2.drawn := rfl
  exact .of_envStep (readTicks_envStep s) (fun h => (draw_mpuf s).trans h)
    ⟨by rw [hsupply]; omega, by rw [hdrawn]; omega, fun h k => by rw [hsupply] at h; rw [hdrawn] at k; omega⟩

theorem scbRead_changesOnly (off : Nat) (s : State) : ChangesOnly P s (scbRead off s).2 := by
  unfold scbRead
  split
  case h_5 => -- offset 0x04, SYS_TICKS
    exact readTicks_changesOnly s
  case h_10 => -- offset 0x09, SYS_RNG
    exact draw_changesOnly s
  all_goals exact ChangesOnly.refl s

theorem deviceRead_changesOnly (d : Device) (off : Nat) (s : State) : ChangesOnly P s (deviceRead d off s).2 := by
  unfold deviceRead
  split
  case h_4 => -- past the header words
    exact draw_changesOnly s
  all_goals exact ChangesOnly.refl s

theorem devRead_changesOnly (slot off : Nat) (s : State) : ChangesOnly P s (devRead slot off s).2 := by
  unfold devRead
  split
  · exact scbRead_changesOnly off s
  · split
    · exact (emit_changesOnly s _).trans (deviceRead_changesOnly _ off _)
    · exact emit_changesOnly s _

theorem physRead_changesOnly (addr : Word) (s : State) : ChangesOnly P s (physRead addr s).2 := by
  unfold physRead
  split
  · exact devRead_changesOnly _ _ s
  · split <;> exact ChangesOnly.refl s

theorem noteViolation_mpuf {s : State} (h : s.mpuf = true) : (noteViolation s).mpuf = true := by
  unfold noteViolation
  split
  · rfl
  · exact h

theorem noteViolation_ticks (s : State) : TicksByDraw s (noteViolation s) := by
  unfold noteViolation
  split <;> exact TicksByDraw.refl s

theorem memRead_changesOnly (addr : Word) (s : State) : ChangesOnly P s (memRead addr s).2 := by
  unfold memRead
  split
  · exact .of_envStep (noteViolation_envStep s) noteViolation_mpuf (noteViolation_ticks s)
  · exact physRead_changesOnly addr s

theorem fetchNext_changesOnly (s : State) : ChangesOnly P s (fetchNext s) :=
  (memRead_changesOnly s.pc s).trans (setPc_changesOnly _ _)

theorem pop_changesOnly (h : P .sp) (s : State) : ChangesOnly P s (pop s).2 :=
  (memRead_changesOnly s.sp s).trans (setSp_changesOnly _ h _)

theorem skipFrom_changesOnly (n : Nat) (s : State) : ChangesOnly P s (skipFrom n s).2 := by
  induction n generalizing s with
  | zero => exact ChangesOnly.refl s
  | succ n ih =>
    have hone := (memRead_changesOnly (P := P) s.pc s).trans
      (setPc_changesOnly _ ((memRead s.pc s).2.pc + BitVec.ofNat 16 (lengthOf (memRead s.pc s).1)))
    simp only [skipFrom]
    split
    · exact hone.trans (ih _)
    · exact hone

end Reads

/-! ### Writes -/

/-- The pieces a location is. -/
def piecesOf : Loc → List Piece
  | .reg r => [.reg r]
  | .sp => [.sp]
  | .ex => [.ex]
  | .fl => [.zeroSign, .carryOverflow]
  | .pc | .mem _ | .memPush _ | .memPop _ | .lit _ => []

section Writes
variable {P : Piece → Prop}

/-- A store may note a violation and never forgets one. -/
theorem memWrite_mpuf (addr v : Word) {s : State} (h : s.mpuf = true) : (memWrite addr v s).mpuf = true := by
  unfold memWrite
  split
  · exact noteViolation_mpuf h
  · unfold physWrite devWrite scbWrite
    repeat' split
    all_goals exact h

theorem storeLoc_mpuf (l : Loc) (v : Word) {s : State} (h : s.mpuf = true) : (storeLoc l v s).mpuf = true := by
  cases l with
  | mem addr | memPush addr | memPop addr => exact memWrite_mpuf addr v h
  | _ => exact h

/-- A write to a location changes the pieces the location is. -/
theorem storeLoc_changesOnly {l : Loc} (hl : ∀ p ∈ piecesOf l, P p) (v : Word) (s : State) :
    ChangesOnly P s (storeLoc l v s) := by
  have h := storeLoc_putStep l v s
  have hne {p : Piece} {k : Loc} (hp : ¬P p) (hk : p ∈ piecesOf k) : l ≠ k := fun e => hp (hl p (e ▸ hk))
  intro p hp
  cases p with
  | reg r => exact h.regs r (hne hp (by simp [piecesOf]))
  | sp => exact h.sp (hne hp (by simp [piecesOf]))
  | ex => exact h.ex (hne hp (by simp [piecesOf]))
  | zeroSign => simp [Piece.kept, h.fl (hne hp (by simp [piecesOf]))]
  | carryOverflow => simp [Piece.kept, h.fl (hne hp (by simp [piecesOf]))]
  | ia => exact h.system.ia
  | iq => exact h.system.iq
  | queue => exact h.system.queue
  | halted => exact h.system.halted
  | hostStop => exact h.system.hostStop
  | mpuf => exact storeLoc_mpuf l v
  | arrivals => exact h.system.arrivals
  | cfg => exact h.system.cfg
  | ticks =>
    exact ⟨Nat.le_of_eq (congrArg _ h.supply), Nat.le_of_eq h.drawn.symm, fun _ _ => h.sysTicks⟩

theorem memWrite_changesOnly (addr v : Word) (s : State) : ChangesOnly P s (memWrite addr v s) :=
  storeLoc_changesOnly (l := .mem addr) (by simp [piecesOf]) v s

theorem push_changesOnly (h : P .sp) (v : Word) (s : State) : ChangesOnly P s (push v s) :=
  (setSp_changesOnly s h _).trans (memWrite_changesOnly _ v _)

theorem copyWord_changesOnly (src dst : Word) (i : Nat) (s : State) : ChangesOnly P s (copyWord src dst i s).2 := by
  unfold copyWord
  simp only
  split
  · exact memRead_changesOnly _ s
  · exact (memRead_changesOnly _ s).trans (memWrite_changesOnly _ _ _)

theorem copyWords_changesOnly (src dst : Word) (is : List Nat) (s : State) :
    ChangesOnly P s (copyWords src dst is s).2 := by
  induction is generalizing s with
  | nil => exact ChangesOnly.refl s
  | cons i is ih =>
    simp only [copyWords]
    split
    · exact copyWord_changesOnly src dst i s
    · exact (copyWord_changesOnly src dst i s).trans (ih _)

theorem copyEnd_changesOnly (hA : P (.reg .A)) (hB : P (.reg .B)) (hC : P (.reg .C)) (src dst : Word) (n : Nat)
    (backward : Bool) (stop : Option Nat) (s : State) : ChangesOnly P s (copyEnd src dst n backward stop s) := by
  cases stop <;>
    exact ((setReg_changesOnly s hA _).trans (setReg_changesOnly _ hB _)).trans (setReg_changesOnly _ hC _)

end Writes

/-! ### Interrupts -/

/-- What an arriving message may change: entering a handler moves A, SP, IQ and HALTED and clears a noted violation,
waiting in the queue moves the queue and HALTED (60_exceptions.md R306 to R313). -/
def arrivalPieces : List Piece := [.reg .A, .sp, .iq, .queue, .halted, .mpuf]

section Interrupts
variable {P : Piece → Prop}

theorem enterHandler_changesOnly (hA : P (.reg .A)) (hsp : P .sp) (hhalted : P .halted) (m : Word) (s : State) :
    ChangesOnly P s (enterHandler m s) :=
  ((((push_changesOnly hsp _ s).trans (push_changesOnly hsp _ _)).trans (setPc_changesOnly _ _)).trans
    (setReg_changesOnly _ hA m)).trans (setHalted_changesOnly _ hhalted _)

theorem returnFromInterrupt_changesOnly (hA : P (.reg .A)) (hsp : P .sp) (hiq : P .iq) (s : State) :
    ChangesOnly P s (returnFromInterrupt s) :=
  ((((pop_changesOnly hsp s).trans (setReg_changesOnly _ hA _)).trans (pop_changesOnly hsp _)).trans
    (setPc_changesOnly _ _)).trans (setIq_changesOnly _ hiq _)

variable (hP : ∀ p ∈ arrivalPieces, P p)
include hP

theorem dispatch_changesOnly (m : Word) (s : State) : ChangesOnly P s (dispatch m s) := by
  simp only [arrivalPieces, List.forall_mem_cons] at hP
  obtain ⟨hA, hsp, hiq, hqueue, hhalted, hmpuf, -⟩ := hP
  have henter : ChangesOnly P s (enterHandler m (s.setIq true)) :=
    (setIq_changesOnly s hiq _).trans (enterHandler_changesOnly hA hsp hhalted m _)
  have hclear := henter.trans (setMpuf_changesOnly _ hmpuf false)
  unfold dispatch
  simp only
  split
  · split
    · exact hclear.trans (setQueue_changesOnly _ hqueue _)
    · exact hclear
  · exact henter

theorem overflowFault_changesOnly (s : State) : ChangesOnly P s (overflowFault s) := by
  simp only [arrivalPieces, List.forall_mem_cons] at hP
  obtain ⟨hA, hsp, -, -, hhalted, hmpuf, -⟩ := hP
  exact (enterHandler_changesOnly hA hsp hhalted _ s).trans (setMpuf_changesOnly _ hmpuf false)

theorem enqueueMsg_changesOnly (m : Word) (s : State) : ChangesOnly P s (enqueueMsg m s) := by
  have hqueue : P .queue := hP _ (by simp [arrivalPieces])
  unfold enqueueMsg
  split
  · exact setQueue_changesOnly s hqueue _
  · split
    · exact setQueue_changesOnly s hqueue _
    · split
      · exact overflowFault_changesOnly hP s
      · exact ChangesOnly.refl s

theorem enqueue_changesOnly (m : Word) (s : State) : ChangesOnly P s (enqueue m s) := by
  have hmsg := enqueueMsg_changesOnly hP m s
  unfold enqueue
  simp only
  split
  · exact hmsg.trans (setHalted_changesOnly _ (hP _ (by simp [arrivalPieces])) false)
  · exact hmsg

theorem arrive_changesOnly (m : Word) (s : State) : ChangesOnly P s (arrive m s) := by
  unfold arrive
  split
  · exact ChangesOnly.refl s
  · split
    · exact enqueue_changesOnly hP m s
    · exact dispatch_changesOnly hP m s

end Interrupts

/-! ### Operands -/

section Operands
variable {P : Piece → Prop}

theorem locA_changesOnly {a : OpA} (h : a = .pop → P .sp) (s : State) : ChangesOnly P s (locA a s).2 := by
  cases a with
  | pop => exact setSp_changesOnly s (h rfl) _
  | idx | pick | dir | lit => exact setPc_changesOnly s _
  | _ => exact ChangesOnly.refl s

theorem passA_changesOnly (a : OpA) (s : State) : ChangesOnly P s (passA a s) := by
  rw [passA_eq]
  exact setPc_changesOnly s _

theorem locB_changesOnly {b : OpB} (h : b = .push → P .sp) (s : State) : ChangesOnly P s (locB b s).2 := by
  cases b with
  | push => exact setSp_changesOnly s (h rfl) _
  | idx | pick | dir => exact fetchNext_changesOnly s
  | _ => exact ChangesOnly.refl s

theorem loadLoc_changesOnly (l : Loc) (s : State) : ChangesOnly P s (loadLoc l s).2 := by
  cases l with
  | mem addr | memPush addr | memPop addr => exact memRead_changesOnly addr s
  | _ => exact ChangesOnly.refl s

theorem readA_changesOnly {a : OpA} (h : a = .pop → P .sp) (s : State) : ChangesOnly P s (readA a s).2 :=
  (locA_changesOnly h s).trans (loadLoc_changesOnly _ _)

/-- The state once `a` is read and `b` is resolved. -/
theorem resolve_changesOnly {b : OpB} {a : OpA} (ha : a = .pop → P .sp) (hb : b = .push → P .sp) (s : State) :
    ChangesOnly P s (locB b (readA a s).2).2 :=
  (readA_changesOnly ha s).trans (locB_changesOnly hb _)

theorem readLoc_changesOnly {l : Loc} {s : State} {v : Word × State} (h : readLoc l s = .ok v) :
    ChangesOnly P s v.2 := by
  have hv : loadLoc l s = v := by
    cases l with
    | memPush addr => cases h
    | _ => exact Except.ok.inj h
  exact hv ▸ loadLoc_changesOnly l s

theorem writeLoc_changesOnly {l : Loc} {v : Word} {s t : State} (hl : ∀ p ∈ piecesOf l, P p)
    (h : writeLoc l v s = .ok t) : ChangesOnly P s t := by
  have ht : storeLoc l v s = t := by
    cases l with
    | memPop addr => cases h
    | _ => exact Except.ok.inj h
  exact ht ▸ storeLoc_changesOnly hl v s

end Operands

/-! ### What an instruction may change -/

/-- The pieces the frame statements let an instruction change. -/
def mayChange (i : Instr) : Piece → Prop
  | .reg r => r ∈ writesRegs i
  | .sp => touchesSp i
  | .ex => touchesEx i
  | .zeroSign => writesFl i ∨ updatesAllFlags i ∨ updatesZeroSign i
  | .carryOverflow => writesFl i ∨ updatesAllFlags i
  | .ia => ∃ a, i = .ias a
  | .iq => ∃ a, i = .int a ∨ i = .rfi a ∨ i = .iaq a
  | .queue | .mpuf => ∃ a, i = .int a
  | .halted => ∃ a, i = .int a ∨ i = .hlt a
  | .hostStop => ∃ a, i = .brk a
  | .arrivals | .cfg | .ticks => False

theorem writesRegs_of_destB {i : Instr} {b : OpB} (h : destOf i = .b b) : writesRegs i = gprB b := by
  unfold writesRegs
  split
  · cases h
  · cases h
  · cases h
  · rw [h]

theorem writesRegs_of_destA {i : Instr} {a : OpA} (h : destOf i = .a a) : writesRegs i = gprA a := by
  unfold writesRegs
  split
  · cases h
  · cases h
  · cases h
  · rw [h]

/-- An instruction may change what its destination `b` is. -/
theorem mayChange_destB {i : Instr} {b : OpB} (h : destOf i = .b b) (s : State) :
    ∀ p ∈ piecesOf (locB b s).1, mayChange i p := by
  cases b with
  | reg r => simp [locB, piecesOf, mayChange, writesRegs_of_destB h, gprB]
  | sp => simp [locB, piecesOf, mayChange, touchesSp, h]
  | ex => simp [locB, piecesOf, mayChange, touchesEx, h]
  | fl => simp [locB, piecesOf, mayChange, writesFl, h]
  | _ => simp [locB, piecesOf]

/-- An instruction may change what its destination `a` is. -/
theorem mayChange_destA {i : Instr} {a : OpA} (h : destOf i = .a a) (s : State) :
    ∀ p ∈ piecesOf (locA a s).1, mayChange i p := by
  cases a with
  | reg r => simp [locA, piecesOf, mayChange, writesRegs_of_destA h, gprA]
  | sp => simp [locA, piecesOf, mayChange, touchesSp, h]
  | ex => simp [locA, piecesOf, mayChange, touchesEx, h]
  | fl => simp [locA, piecesOf, mayChange, writesFl, h]
  | _ => simp [locA, piecesOf]

theorem mayChange_sp_of_pop {i : Instr} {a : OpA} (hA : i.operandA = a) (h : a = .pop) : mayChange i .sp :=
  .inl (hA.trans h)

theorem mayChange_sp_of_push {i : Instr} {b : OpB} (hB : operandB i = some b) (h : b = .push) : mayChange i .sp :=
  .inr (.inl (h ▸ hB))

/-- INT may change all that an arriving message may. -/
theorem mayChange_int (a : OpA) : ∀ p ∈ arrivalPieces, mayChange (.int a) p := by
  simp [arrivalPieces, mayChange, writesRegs, touchesSp]

/-! ### Outcomes -/

/-- If there is a next state, only the pieces `P` names have changed. -/
def EndsWithin (P : Piece → Prop) (s : State) (o : Host.Outcome State Fault Refusal) : Prop :=
  ∀ t, o = .next t → ChangesOnly P s t

/-- A computation, from old flags `f`, writes no more of EX and the flags than `P` names. -/
structure OutWithin (P : Piece → Prop) (f : Flags) (o : AluOut) : Prop where
  ex : P .ex ∨ o.ex = none
  zeroSign : P .zeroSign ∨ o.fl.z = f.z ∧ o.fl.s = f.s
  carryOverflow : P .carryOverflow ∨ o.fl.c = f.c ∧ o.fl.o = f.o

section Outcomes
variable {P : Piece → Prop} {s t : State} {o : Host.Outcome State Fault Refusal}

theorem EndsWithin.next (h : ChangesOnly P s t) : EndsWithin P s (.next t) := by
  rintro _ ⟨⟩
  exact h

theorem EndsWithin.fault (f : Fault) : EndsWithin P s (.fault f) := by
  rintro _ ⟨⟩

theorem EndsWithin.after (h : ChangesOnly P s t) (g : EndsWithin P t o) : EndsWithin P s o :=
  fun u hu => h.trans (g u hu)

theorem putEx_changesOnly {e : Option Word} (h : P .ex ∨ e = none) (s : State) : ChangesOnly P s (putEx e s) := by
  cases e with
  | none => exact ChangesOnly.refl s
  | some v => exact setEx_changesOnly s (h.resolve_right (by simp)) v

theorem putEx_fl (e : Option Word) (s : State) : (putEx e s).fl = s.fl := by
  cases e <;> rfl

theorem putOut_within {l : Loc} {r : AluOut} (hl : ∀ p ∈ piecesOf l, P p) (hr : OutWithin P s.fl r) :
    EndsWithin P s (putOut l r s) := by
  have hflags : ChangesOnly P s ((putEx r.ex s).setFl r.fl) :=
    (putEx_changesOnly hr.ex s).trans
      (setFl_changesOnly _ (by rw [putEx_fl]; exact hr.zeroSign) (by rw [putEx_fl]; exact hr.carryOverflow))
  unfold putOut
  split
  next h => exact .next (hflags.trans (writeLoc_changesOnly hl h))
  next => exact .fault _

end Outcomes

/-! ### Shapes of instruction (30_encoding.md R93)

Each shape, for an instruction whose operands and destination are the shape's. -/

section Shapes
variable {i : Instr} {b : OpB} {a : OpA} (s : State)

section OperandA
variable (hA : i.operandA = a)
include hA

theorem unaryOp_within (base : Nat) (f : Flags → Word → AluOut) (hD : destOf i = .a a)
    (hf : ∀ fl v, OutWithin (mayChange i) fl (f fl v)) : EndsWithin (mayChange i) s (unaryOp base f a s) := by
  have hloc : ChangesOnly (mayChange i) s (locA a s).2 := locA_changesOnly (mayChange_sp_of_pop hA) s
  unfold unaryOp
  simp only
  split
  next => exact .fault _
  next v h =>
    exact .after ((hloc.trans (readLoc_changesOnly h)).trans (charge_changesOnly _ _))
      (putOut_within (mayChange_destA hD s) (hf _ _))

theorem execIag_within (hD : destOf i = .a a) : EndsWithin (mayChange i) s (execIag a s) := by
  have hloc : ChangesOnly (mayChange i) s (locA a s).2 := locA_changesOnly (mayChange_sp_of_pop hA) s
  unfold execIag
  simp only
  split
  next h => exact .next ((hloc.trans (charge_changesOnly _ _)).trans (writeLoc_changesOnly (mayChange_destA hD s) h))
  next => exact .fault _

theorem jumpIf_within (cond : Flags → Bool) : EndsWithin (mayChange i) s (jumpIf cond a s) := by
  unfold jumpIf
  split
  · exact .next (((readA_changesOnly (mayChange_sp_of_pop hA) s).trans (setPc_changesOnly _ _)).trans
      (charge_changesOnly _ _))
  · exact .next ((passA_changesOnly a s).trans (charge_changesOnly _ _))

/-- JSR and BSR push the return address and differ in PC alone. -/
theorem call_changesOnly (hsp : mayChange i .sp) (target : Word) :
    ChangesOnly (mayChange i) s (((push (readA a s).2.pc (readA a s).2).setPc target).charge (3 + costA a)) :=
  (((readA_changesOnly (mayChange_sp_of_pop hA) s).trans (push_changesOnly hsp _ _)).trans
    (setPc_changesOnly _ _)).trans (charge_changesOnly _ _)

theorem execStb_within : EndsWithin (mayChange i) s (execStb a s) :=
  .next ((((readA_changesOnly (mayChange_sp_of_pop hA) s).trans (memRead_changesOnly _ _)).trans
    (memWrite_changesOnly _ _ _)).trans (charge_changesOnly _ _))

end OperandA

section OperandsBA
variable (hA : i.operandA = a) (hB : operandB i = some b)
include hA hB

/-- The operands of a basic instruction, evaluated. -/
theorem operands_changesOnly : ChangesOnly (mayChange i) s (locB b (readA a s).2).2 :=
  resolve_changesOnly (mayChange_sp_of_pop hA) (mayChange_sp_of_push hB) s

theorem readModifyWrite_within (base : Nat) (f : Flags → Word → Word → AluOut) (hD : destOf i = .b b)
    (hf : ∀ fl x y, OutWithin (mayChange i) fl (f fl x y)) :
    EndsWithin (mayChange i) s (readModifyWrite base f b a s) := by
  unfold readModifyWrite
  simp only
  split
  next => exact .fault _
  next v h =>
    exact .after (((operands_changesOnly s hA hB).trans (readLoc_changesOnly h)).trans (charge_changesOnly _ _))
      (putOut_within (mayChange_destB hD _) (hf _ _ _))

theorem compareOnly_within (base : Nat) (f : Flags → Word → Word → AluOut) (hall : updatesAllFlags i) :
    EndsWithin (mayChange i) s (compareOnly base f b a s) := by
  unfold compareOnly
  simp only
  split
  next => exact .fault _
  next v h =>
    exact .next ((((operands_changesOnly s hA hB).trans (readLoc_changesOnly h)).trans (charge_changesOnly _ _)).trans
      (setFl_changesOnly _ (.inl (.inr (.inl hall))) (.inl (.inr hall))))

theorem skipUnless_within (cond : Word → Word → Bool) : EndsWithin (mayChange i) s (skipUnless cond b a s) := by
  unfold skipUnless
  simp only
  split
  next => exact .fault _
  next v h =>
    have hread := ((operands_changesOnly s hA hB).trans (readLoc_changesOnly h)).trans
      (charge_changesOnly _ (2 + costA a + costB b))
    split
    · exact .next hread
    · exact .next ((hread.trans (skipFrom_changesOnly _ _)).trans (charge_changesOnly _ _))

theorem execSet_within (hD : destOf i = .b b) : EndsWithin (mayChange i) s (execSet b a s) := by
  unfold execSet
  simp only
  split
  next h =>
    exact .next (((operands_changesOnly s hA hB).trans (charge_changesOnly _ _)).trans
      (writeLoc_changesOnly (mayChange_destB hD _) h))
  next => exact .fault _

theorem execLdb_within (hD : destOf i = .b b) (hzs : updatesZeroSign i) :
    EndsWithin (mayChange i) s (execLdb b a s) :=
  .after (((operands_changesOnly s hA hB).trans (memRead_changesOnly _ _)).trans (charge_changesOnly _ _))
    (putOut_within (mayChange_destB hD _)
      { ex := .inr rfl, zeroSign := .inl (.inr (.inr hzs)), carryOverflow := .inr ⟨rfl, rfl⟩ })

end OperandsBA

/-- A computation that updates all flags writes what its instruction may, if EX is among that or is left. -/
theorem outWithin_of_updatesAllFlags (hall : updatesAllFlags i) {fl : Flags} {o : AluOut}
    (hex : touchesEx i ∨ o.ex = none) : OutWithin (mayChange i) fl o where
  ex := hex
  zeroSign := .inl (.inr (.inl hall))
  carryOverflow := .inl (.inr hall)

theorem doNothing_within (cost : Nat) : EndsWithin (mayChange i) s (doNothing cost a s) :=
  .next ((passA_changesOnly a s).trans (charge_changesOnly _ _))

end Shapes

/-! ### Instructions with a shape of their own -/

theorem execInt_within (a : OpA) (s : State) : EndsWithin (mayChange (.int a)) s (execInt a s) :=
  .next (((readA_changesOnly (mayChange_sp_of_pop rfl) s).trans (arrive_changesOnly (mayChange_int a) _ _)).trans
    (charge_changesOnly _ _))

theorem execIas_within (a : OpA) (s : State) : EndsWithin (mayChange (.ias a)) s (execIas a s) :=
  .next (((readA_changesOnly (mayChange_sp_of_pop rfl) s).trans (setIa_changesOnly _ ⟨a, rfl⟩ _)).trans
    (charge_changesOnly _ _))

theorem execIaq_within (a : OpA) (s : State) : EndsWithin (mayChange (.iaq a)) s (execIaq a s) :=
  .next (((readA_changesOnly (mayChange_sp_of_pop rfl) s).trans
    (setIq_changesOnly _ ⟨a, .inr (.inr rfl)⟩ _)).trans (charge_changesOnly _ _))

theorem execRfi_within (a : OpA) (s : State) : EndsWithin (mayChange (.rfi a)) s (execRfi a s) :=
  .next (((passA_changesOnly a s).trans (returnFromInterrupt_changesOnly (by simp [mayChange, writesRegs])
    (by simp [mayChange, touchesSp]) (by simp [mayChange]) _)).trans (charge_changesOnly _ _))

theorem execBcopy_within (a : OpA) (s : State) : EndsWithin (mayChange (.bcopy a)) s (execBcopy a s) :=
  .next ((((passA_changesOnly a s).trans (copyWords_changesOnly _ _ _ _)).trans
    (copyEnd_changesOnly (by simp [mayChange, writesRegs]) (by simp [mayChange, writesRegs])
      (by simp [mayChange, writesRegs]) _ _ _ _ _ _)).trans (charge_changesOnly _ _))

theorem execBrk_within (a : OpA) (s : State) : EndsWithin (mayChange (.brk a)) s (execBrk a s) := by
  have hpass : ChangesOnly (mayChange (.brk a)) s ((passA a s).charge 1) :=
    (passA_changesOnly a s).trans (charge_changesOnly _ _)
  unfold execBrk
  simp only
  split
  · exact .next ((hpass.trans (emit_changesOnly _ _)).trans (setHostStop_changesOnly _ ⟨a, rfl⟩ _))
  · exact .next hpass

theorem execHlt_within (a : OpA) (s : State) : EndsWithin (mayChange (.hlt a)) s (execHlt a s) :=
  .next (((passA_changesOnly a s).trans (setHalted_changesOnly _ ⟨a, .inr rfl⟩ _)).trans (charge_changesOnly _ _))

theorem execNop_within (a : OpA) (s : State) : EndsWithin (mayChange (.nop a)) s (execNop a s) :=
  .next ((readA_changesOnly (mayChange_sp_of_pop rfl) s).trans (charge_changesOnly _ _))

theorem execReserved1F_within (b : OpB) (a : OpA) (s : State) :
    EndsWithin (mayChange (.reserved1F b a)) s (execReserved1F b a s) :=
  .next ((operands_changesOnly s rfl rfl).trans (charge_changesOnly _ _))

/-- The frame of all 63 instructions: each by the lemma of its shape, and by the fact that the statements' lists name it
where the shape writes EX, the flags or SP. -/
theorem exec_within (i : Instr) (s : State) : EndsWithin (mayChange i) s (exec i s) := by
  cases i with
  | set b a => exact execSet_within s rfl rfl rfl
  | add b a | sub b a | mul b a | mli b a | div b a | dvi b a | mod b a | mdi b a | shr b a | asr b a | shl b a
  | adc b a | sbb b a | fxmul b a | fxdiv b a =>
    exact readModifyWrite_within s rfl rfl _ _ rfl fun _ _ _ =>
      outWithin_of_updatesAllFlags (by simp [updatesAllFlags]) (.inl (by simp [touchesEx]))
  | and b a | bor b a | xor b a =>
    exact readModifyWrite_within s rfl rfl _ _ rfl fun _ _ _ =>
      outWithin_of_updatesAllFlags (by simp [updatesAllFlags]) (.inr rfl)
  | cmp b a | tst b a => exact compareOnly_within s rfl rfl _ _ (by simp [updatesAllFlags])
  | ifb b a | ifc b a | ife b a | ifn b a | ifg b a | ifa b a | ifl b a | ifu b a =>
    exact skipUnless_within s rfl rfl _
  | ldb b a => exact execLdb_within s rfl rfl rfl (by simp [updatesZeroSign])
  | reserved1F b a => exact execReserved1F_within b a s
  | nop a => exact execNop_within a s
  | jsr a | bsr a => exact .next (call_changesOnly s rfl (by simp [mayChange, touchesSp]) _)
  | jz a | jnz a | jc a | jnc a | js a | jns a | jo a | ja a | jbe a | jge a | jl a | jg a | jle a =>
    exact jumpIf_within s rfl _
  | int a => exact execInt_within a s
  | iag a => exact execIag_within s rfl rfl
  | ias a => exact execIas_within a s
  | rfi a => exact execRfi_within a s
  | iaq a => exact execIaq_within a s
  | reserved15 a | reserved16 a | reserved17 a => exact doNothing_within s _
  | neg a | not a =>
    exact unaryOp_within s rfl _ _ rfl fun _ _ =>
      outWithin_of_updatesAllFlags (by simp [updatesAllFlags]) (.inr rfl)
  | sxb a =>
    exact unaryOp_within s rfl _ _ rfl fun _ _ =>
      { ex := .inr rfl, zeroSign := .inl (by simp [mayChange, updatesZeroSign]), carryOverflow := .inr ⟨rfl, rfl⟩ }
  | swp a =>
    exact unaryOp_within s rfl _ _ rfl fun _ _ =>
      { ex := .inr rfl, zeroSign := .inr ⟨rfl, rfl⟩, carryOverflow := .inr ⟨rfl, rfl⟩ }
  | bcopy a => exact execBcopy_within a s
  | brk a => exact execBrk_within a s
  | hlt a => exact execHlt_within a s
  | stb a => exact execStb_within s rfl

/-! ### The statements -/

/-- Settles O27: the register, SP and EX pieces of the frame of every instruction (`exec_within`). -/
theorem registersOnlyAsNamed : Obligations.RegistersOnlyAsNamed := fun i s t h =>
  have hkept := exec_within i s t h
  ⟨fun r => hkept (.reg r), hkept .sp, hkept .ex⟩

theorem not_updatesAllFlags_of_updatesZeroSign {i : Instr} (h : updatesZeroSign i) : ¬updatesAllFlags i := by
  obtain ⟨b, a, rfl⟩ | ⟨a, rfl⟩ := h <;> simp [updatesAllFlags]

/-- Settles O28: the two flag pieces of the frame of every instruction (`exec_within`), put together where neither may
change. -/
theorem flagsOnlyAsNamed : Obligations.FlagsOnlyAsNamed := by
  intro i s t h hfl
  have hkept := exec_within i s t h
  have hzs : ¬updatesAllFlags i → ¬updatesZeroSign i → t.fl.z = s.fl.z ∧ t.fl.s = s.fl.s :=
    fun hall hbyte => hkept .zeroSign (by simp [mayChange, hfl, hall, hbyte])
  have hco : ¬updatesAllFlags i → t.fl.c = s.fl.c ∧ t.fl.o = s.fl.o :=
    fun hall => hkept .carryOverflow (by simp [mayChange, hfl, hall])
  refine ⟨fun hall hbyte => ?_, fun hbyte => hco (not_updatesAllFlags_of_updatesZeroSign hbyte)⟩
  obtain ⟨hz, hs⟩ := hzs hall hbyte
  obtain ⟨hc, ho⟩ := hco hall
  calc t.fl = ⟨t.fl.z, t.fl.c, t.fl.s, t.fl.o⟩ := rfl
    _ = ⟨s.fl.z, s.fl.c, s.fl.s, s.fl.o⟩ := by rw [hz, hc, hs, ho]

/-- Settles O29: the pieces of the system state in the frame of every instruction (`exec_within`). -/
theorem systemStateOnlyAsNamed : Obligations.SystemStateOnlyAsNamed := by
  intro i s t h
  have hkept := exec_within i s t h
  have hticks : TicksByDraw s t := hkept .ticks id
  obtain ⟨-, -, hticks⟩ := hticks
  exact ⟨fun hi => hkept .ia (by simpa [mayChange] using hi), fun hi => hkept .iq (by simpa [mayChange] using hi),
    fun hi => hkept .queue (by simpa [mayChange] using hi), fun hi => hkept .halted (by simpa [mayChange] using hi),
    fun hi => hkept .hostStop (by simpa [mayChange] using hi), hkept .cfg id, hkept .arrivals id,
    fun hi => hkept .mpuf (by simpa [mayChange] using hi), hticks⟩

end Sys2Proof.Proofs.StateFrames
end

-- Memory below the MMIO window and the protection unit (20_memory.md R43 to R70).
section
namespace Sys2Proof.Proofs.MemoryAccess

open Sys2Proof Sys2Proof.Machine

/-! ### The protection unit (20_memory.md R60 to R66) -/

/-- R62 with its four conditions as propositions. -/
theorem mpuViolation_iff (addr : Word) (k : Access) (s : State) :
    mpuViolation addr k s = true ↔
      s.mpuCtrl.getLsbD 0 = true ∧ addr.toNat < 0xE000 ∧
      ¬(s.mpuBase.toNat ≤ addr.toNat ∧ addr.toNat < s.mpuLimit.toNat) ∧
      ¬(s.mpuCtrl.getLsbD 2 = true ∧ k = .read) := by
  simp only [mpuViolation, Bool.and_eq_true, Bool.not_eq_true', decide_eq_true_eq, ← Bool.not_eq_true, and_assoc]

/-- The MPU never stands before the MMIO window (R62). -/
theorem mpuViolation_mmio {addr : Word} (h : 0xE000 ≤ addr.toNat) (k : Access) (s : State) :
    mpuViolation addr k s = false := by
  rw [← Bool.not_eq_true, mpuViolation_iff]
  rintro ⟨-, hlow, -⟩
  omega

/-- The MPU looks at its three registers only. -/
theorem mpuViolation_congr {s t : State} (hbase : t.mpuBase = s.mpuBase) (hlimit : t.mpuLimit = s.mpuLimit)
    (hctrl : t.mpuCtrl = s.mpuCtrl) (addr : Word) (k : Access) : mpuViolation addr k t = mpuViolation addr k s := by
  simp only [mpuViolation, hbase, hlimit, hctrl]

theorem noteViolation_eq (s : State) : noteViolation s = if s.mpuCtrl.getLsbD 1 then s.setMpuf true else s := rfl

theorem noteViolation_silent {s : State} (h : s.mpuCtrl.getLsbD 1 = false) : noteViolation s = s := by
  rw [noteViolation_eq, h, if_neg Bool.false_ne_true]

theorem noteViolation_fault {s : State} (h : s.mpuCtrl.getLsbD 1 = true) : noteViolation s = s.setMpuf true := by
  rw [noteViolation_eq, if_pos h]

/-- Settles O12: the model's Boolean predicate, read as a proposition (`mpuViolation_iff`). -/
theorem mpuViolationPredicate : Obligations.MpuViolationPredicate := mpuViolation_iff

/-! ### One access (R47, R50, R51) -/

section Access
variable {addr : Word} {s : State}

/-- A word below the window with no RAM behind it reads 0x0000 (R43, R47). -/
theorem memRead_uninstalled (hlow : addr.toNat < 0xE000) (hram : s.cfg.ram.words ≤ addr.toNat)
    (hpass : mpuViolation addr .read s = false) : memRead addr s = (0x0000#16, s) := by
  rw [memRead, hpass, if_neg Bool.false_ne_true, physRead, if_neg (by omega), if_neg (by omega)]

/-- A store to a word below the window with no RAM behind it is dropped (R43, R47). -/
theorem memWrite_uninstalled (hlow : addr.toNat < 0xE000) (hram : s.cfg.ram.words ≤ addr.toNat) (v : Word)
    (hpass : mpuViolation addr .write s = false) : memWrite addr v s = s := by
  rw [memWrite, hpass, if_neg Bool.false_ne_true, physWrite, if_neg (by omega), if_neg (by omega)]

/-- A read of the window is the device's (R46, R62). -/
theorem memRead_mmio (h : 0xE000 ≤ addr.toNat) (s : State) :
    memRead addr s = devRead (slotOf addr) (offsetOf addr) s := by
  rw [memRead, mpuViolation_mmio h, if_neg Bool.false_ne_true, physRead, if_pos h]

/-- A store to the window is the device's (R46, R62). -/
theorem memWrite_mmio (h : 0xE000 ≤ addr.toNat) (v : Word) (s : State) :
    memWrite addr v s = devWrite (slotOf addr) (offsetOf addr) v s := by
  rw [memWrite, mpuViolation_mmio h, if_neg Bool.false_ne_true, physWrite, if_pos h]

end Access

/-- Settles O13: a read the MPU lets pass by whether the word is installed, a violating one by the mode. -/
theorem readBelowMmio : Obligations.ReadBelowMmio := fun _ _ hlow =>
  ⟨fun hpass hram => memRead_plain ⟨hram, hpass⟩,
    fun hpass hram => memRead_uninstalled hlow hram hpass,
    fun hviol hsilent => by rw [memRead_violation hviol, noteViolation_silent hsilent],
    fun hviol hfault => by rw [memRead_violation hviol, noteViolation_fault hfault]⟩

/-- Settles O14: a write the MPU lets pass by whether the word is installed, a violating one by the mode. -/
theorem writeBelowMmio : Obligations.WriteBelowMmio := fun _ v _ hlow =>
  ⟨fun hpass hram => memWrite_plain ⟨hram, hpass⟩,
    fun hpass hram => memWrite_uninstalled hlow hram v hpass,
    fun hviol hsilent => by rw [memWrite_violation hviol, noteViolation_silent hsilent],
    fun hviol hfault => by rw [memWrite_violation hviol, noteViolation_fault hfault]⟩

/-! ### Read after write (R44, R70) -/

theorem toNat_hiByte (v : Word) : (hiByte v).toNat = v.toNat / 256 := by
  have hv := v.isLt
  rw [hiByte, BitVec.extractLsb'_toNat, Nat.shiftRight_eq_div_pow]
  omega

theorem toNat_loByte (v : Word) : (loByte v).toNat = v.toNat % 256 := by
  rw [loByte, BitVec.extractLsb'_toNat, Nat.shiftRight_zero]

/-- What RAM holds is nothing to the MPU and the installation. -/
theorem plainRam_setMem {addr : Word} {k : Access} {s : State} (h : plainRam addr k s) (m : Memory) :
    plainRam addr k (s.setMem m) := h

/-- Settles O11: in plain RAM both accesses are those of the memory (`memWrite_plain`, `memRead_plain`), so read after
write and the two bytes are the memory's own laws. -/
theorem storeIsReadBack : Obligations.StoreIsReadBack := by
  intro s addr x v hwrite hread
  rw [memWrite_plain hwrite, memRead_plain hread, memRead_plain (plainRam_setMem hread _)]
  refine ⟨?_, ?_, ?_⟩
  · simp only [State.setMem_mem, Memory.readWord_writeWord, BitVec.toNat_inj]
  · rw [State.setMem_mem, Memory.readByte_writeWord, if_pos rfl, toNat_hiByte]
  · rw [State.setMem_mem, Memory.readByte_writeWord, if_neg (by omega), if_pos rfl, toNat_loByte]

end Sys2Proof.Proofs.MemoryAccess
end

-- The device slots of 20_memory.md R46 and 60_exceptions.md R334, R335.
section
namespace Sys2Proof.Proofs.DeviceSlots

open Sys2Proof Sys2Proof.Machine Sys2Proof.Proofs.MemoryAccess

section Access
variable {addr : Word} {s : State}

/-- R46 counts the slots of the window from the window's base; 0xE0 is the base's own high byte. -/
theorem slotOf_eq (addr : Word) : slotOf addr = addr.toNat / 256 - 0xE0 := by
  unfold slotOf
  omega

/-- A store to a device slot is shown to the environment and changes nothing else. -/
theorem memWrite_slot (h : 0xE100 ≤ addr.toNat) (v : Word) (s : State) :
    memWrite addr v s = s.emit (.devWrite (slotOf addr) (offsetOf addr) v) := by
  have hslot : slotOf addr ≠ 0 := by rw [slotOf_eq]; omega
  rw [memWrite_mmio (by omega), devWrite, if_neg hslot]

/-- An empty slot reads 0x0000, and the read is shown to the environment. -/
theorem memRead_emptySlot (h : 0xE100 ≤ addr.toNat) (hnone : s.cfg.devices.lookup (slotOf addr) = none) :
    memRead addr s = (0x0000#16, s.emit (.devRead (slotOf addr) (offsetOf addr))) := by
  have hslot : slotOf addr ≠ 0 := by rw [slotOf_eq]; omega
  rw [memRead_mmio (by omega), devRead, if_neg hslot, hnone]

/-- A present device answers the read, which is shown to the environment. -/
theorem memRead_device {d : Device} (h : 0xE100 ≤ addr.toNat)
    (hd : s.cfg.devices.lookup (slotOf addr) = some d) :
    memRead addr s = deviceRead d (offsetOf addr) (s.emit (.devRead (slotOf addr) (offsetOf addr))) := by
  have hslot : slotOf addr ≠ 0 := by rw [slotOf_eq]; omega
  rw [memRead_mmio (by omega), devRead, if_neg hslot, hd]

end Access

/-! ### A device's registers (R334) -/

section Header
variable (d : Device) {off : Nat} (s : State)

theorem deviceRead_devId (h : off = 0) : deviceRead d off s = (d.devId, s) := by
  subst h
  rfl

theorem deviceRead_devIdHi (h : off = 1) : deviceRead d off s = (d.devIdHi, s) := by
  subst h
  rfl

theorem deviceRead_devVer (h : off = 2) : deviceRead d off s = (d.devVer, s) := by
  subst h
  rfl

theorem deviceRead_beyondHeader (h : 3 ≤ off) : deviceRead d off s = draw s := by
  unfold deviceRead
  split
  case h_4 => rfl
  all_goals omega

end Header

/-! ### The standard table (R335) -/

theorem StandardDevice.slot_range (k : StandardDevice) : 1 ≤ k.slot ∧ k.slot ≤ 31 := by
  cases k <;> decide

section Table
variable {slot off : Nat}

theorem toNat_slotBase_add (hslot : slot ≤ 31) (hoff : off < 256) :
    (slotBase slot + BitVec.ofNat 16 off).toNat = 0xE000 + 256 * slot + off := by
  rw [slotBase, ← BitVec.ofNat_add, BitVec.toNat_ofNat]
  omega

theorem slotOf_slotBase_add (hslot : slot ≤ 31) (hoff : off < 256) :
    slotOf (slotBase slot + BitVec.ofNat 16 off) = slot := by
  rw [slotOf_eq, toNat_slotBase_add hslot hoff]
  omega

theorem offsetOf_slotBase_add (hslot : slot ≤ 31) (hoff : off < 256) :
    offsetOf (slotBase slot + BitVec.ofNat 16 off) = off := by
  rw [offsetOf, toNat_slotBase_add hslot hoff]
  omega

end Table

/-- A standard device in its slot of the table answers at any offset from the slot's base. -/
theorem memRead_standardDevice {s : State} {k : StandardDevice} {d : Device}
    (hd : s.cfg.devices.lookup k.slot = some d) {off : Nat} (hoff : off < 256) :
    memRead (slotBase k.slot + BitVec.ofNat 16 off) s = deviceRead d off (s.emit (.devRead k.slot off)) := by
  obtain ⟨hpos, hmax⟩ := StandardDevice.slot_range k
  have hslot := slotOf_slotBase_add hmax hoff
  rw [memRead_device (by rw [toNat_slotBase_add hmax hoff]; omega) (by rw [hslot]; exact hd), hslot,
    offsetOf_slotBase_add hmax hoff]

/-- Settles O17: every access of slots 1 to 31 goes to the device or to none (`memWrite_slot`, `memRead_emptySlot`,
`memRead_device`), and the table's identifiers are the header words of what stands in its slots. -/
theorem deviceSlotAccess : Obligations.DeviceSlotAccess := by
  refine ⟨fun s addr haddr => ?_, fun s k ver hd => ⟨?_, memRead_standardDevice hd (off := 1) (by decide)⟩⟩
  · dsimp only
    rw [← slotOf_eq]
    refine ⟨fun v => memWrite_slot haddr v s, memRead_emptySlot haddr, fun d hd => ?_⟩
    rw [memRead_device haddr hd]
    exact ⟨d.present, deviceRead_devId d _, deviceRead_devIdHi d _, deviceRead_devVer d _,
      deviceRead_beyondHeader d _⟩
  · have hbase := memRead_standardDevice hd (off := 0) (by decide)
    rwa [BitVec.add_zero] at hbase

end Sys2Proof.Proofs.DeviceSlots
end

-- The fetch the MPU blocks (20_memory.md R50, R63).
section
namespace Sys2Proof.Proofs.BlockedFetch

open Sys2Proof Sys2Proof.Machine Sys2Proof.Proofs.MemoryAccess

/-- The word 0x0000 is NOP with operand A, whatever stands after it (49_block_system.md R275). -/
theorem decodeInstr_zero (na nb : Word) : decodeInstr 0x0000#16 na nb = .nop (.reg .A) := rfl

/-- A blocked first word is fetched as 0x0000, which has no next word to fetch. -/
theorem fetchInstr_blocked {s : State} (h : mpuViolation s.pc .read s = true) :
    fetchInstr s = (.nop (.reg .A), (noteViolation s).setPc (s.pc + 1#16)) := by
  have hlone : nwA (fieldA 0x0000#16) = false := by decide
  simp only [fetchInstr, memRead_violation h, hlone, Bool.false_eq_true, if_false, decodeInstr_zero]

/-- A running CPU's step is the fetched instruction and its end. -/
theorem step_running {s : State} (hrun : s.hostStop = .running) (hhalted : s.halted = false) :
    step s = finishStep (exec (fetchInstr s).1 (fetchInstr s).2) := by
  simp only [step, hrun, hhalted, Bool.false_eq_true, if_false]

/-- Settles O6: the blocked fetch gives NOP (`fetchInstr_blocked`), which reads a register and costs one cycle. -/
theorem blockedFetchIsNop : Obligations.BlockedFetchIsNop := by
  intro s hrun hhalted hviol
  rw [step_running hrun hhalted, fetchInstr_blocked hviol, noteViolation_eq]
  rfl

end Sys2Proof.Proofs.BlockedFetch
end

-- The one effect of an instruction on memory: the invariant and the confinement of stores (20_memory.md R43, R62 to R66).
section
namespace Sys2Proof.Proofs.MemoryEffect

open Sys2Proof Sys2Proof.Machine Sys2Proof.Proofs.MemoryAccess

/-! ### What touches neither memory nor the MPU -/

/-- RAM, the MPU's registers, the installation and the queue are as before: what the invariant's standing part and the
MPU look at. -/
structure StoresNothing (s t : State) : Prop where
  mem : t.mem = s.mem
  mpuBase : t.mpuBase = s.mpuBase
  mpuLimit : t.mpuLimit = s.mpuLimit
  mpuCtrl : t.mpuCtrl = s.mpuCtrl
  cfg : t.cfg = s.cfg
  queue : t.queue = s.queue

theorem StoresNothing.refl (s : State) : StoresNothing s s := ⟨rfl, rfl, rfl, rfl, rfl, rfl⟩

theorem StoresNothing.trans {s t u : State} (h : StoresNothing s t) (g : StoresNothing t u) : StoresNothing s u :=
  ⟨g.mem.trans h.mem, g.mpuBase.trans h.mpuBase, g.mpuLimit.trans h.mpuLimit, g.mpuCtrl.trans h.mpuCtrl,
    g.cfg.trans h.cfg, g.queue.trans h.queue⟩

theorem StoresNothing.of_envStep {s t : State} (h : EnvStep s t) : StoresNothing s t :=
  ⟨h.mem, h.mpuBase, h.mpuLimit, h.mpuCtrl, h.cfg, h.queue⟩

section Updates
variable (s : State)

theorem setReg_storesNothing (r : Reg) (v : Word) : StoresNothing s (s.setReg r v) := ⟨rfl, rfl, rfl, rfl, rfl, rfl⟩
theorem setPc_storesNothing (v : Word) : StoresNothing s (s.setPc v) := ⟨rfl, rfl, rfl, rfl, rfl, rfl⟩
theorem setSp_storesNothing (v : Word) : StoresNothing s (s.setSp v) := ⟨rfl, rfl, rfl, rfl, rfl, rfl⟩
theorem setEx_storesNothing (v : Word) : StoresNothing s (s.setEx v) := ⟨rfl, rfl, rfl, rfl, rfl, rfl⟩
theorem setFl_storesNothing (f : Flags) : StoresNothing s (s.setFl f) := ⟨rfl, rfl, rfl, rfl, rfl, rfl⟩
theorem setIa_storesNothing (v : Word) : StoresNothing s (s.setIa v) := ⟨rfl, rfl, rfl, rfl, rfl, rfl⟩
theorem setIq_storesNothing (v : Bool) : StoresNothing s (s.setIq v) := ⟨rfl, rfl, rfl, rfl, rfl, rfl⟩
theorem setHalted_storesNothing (v : Bool) : StoresNothing s (s.setHalted v) := ⟨rfl, rfl, rfl, rfl, rfl, rfl⟩
theorem setHostStop_storesNothing (v : HostStop) : StoresNothing s (s.setHostStop v) :=
  ⟨rfl, rfl, rfl, rfl, rfl, rfl⟩
theorem emit_storesNothing (e : BusEvent) : StoresNothing s (s.emit e) := ⟨rfl, rfl, rfl, rfl, rfl, rfl⟩
theorem charge_storesNothing (n : Nat) : StoresNothing s (s.charge n) := ⟨rfl, rfl, rfl, rfl, rfl, rfl⟩

end Updates

section Operations
variable (s : State)

theorem memRead_storesNothing (addr : Word) : StoresNothing s (memRead addr s).2 := .of_envStep (memRead_envStep addr s)

theorem readA_storesNothing (a : OpA) : StoresNothing s (readA a s).2 :=
  ((setPc_storesNothing s _).trans (setSp_storesNothing _ _)).trans (.of_envStep (readA_envStep a s))

/-- The state once `a` is read and `b` is resolved. -/
theorem resolve_storesNothing (b : OpB) (a : OpA) : StoresNothing s (locB b (readA a s).2).2 :=
  ((setPc_storesNothing s _).trans (setSp_storesNothing _ _)).trans (.of_envStep (resolve_envStep b a s))

theorem locA_storesNothing (a : OpA) : StoresNothing s (locA a s).2 := by
  rw [locA_state]
  exact (setPc_storesNothing s _).trans (setSp_storesNothing _ _)

theorem passA_storesNothing (a : OpA) : StoresNothing s (passA a s) := by
  rw [passA_eq]
  exact setPc_storesNothing s _

theorem pop_storesNothing : StoresNothing s (pop s).2 := by
  rw [pop_eq]
  exact (memRead_storesNothing s _).trans (setSp_storesNothing _ _)

theorem skipFrom_storesNothing (n : Nat) : StoresNothing s (skipFrom n s).2 := by
  obtain ⟨v, h⟩ := skipFrom_envStep n s
  exact (setPc_storesNothing s v).trans (.of_envStep h)

theorem returnFromInterrupt_storesNothing : StoresNothing s (returnFromInterrupt s) :=
  ((((pop_storesNothing s).trans (setReg_storesNothing _ _ _)).trans (pop_storesNothing _)).trans
    (setPc_storesNothing _ _)).trans (setIq_storesNothing _ _)

theorem putEx_storesNothing (e : Option Word) : StoresNothing s (putEx e s) := by
  cases e with
  | none => exact .refl s
  | some v => exact setEx_storesNothing s v

theorem copyEnd_storesNothing (src dst : Word) (n : Nat) (backward : Bool) (stop : Option Nat) :
    StoresNothing s (copyEnd src dst n backward stop s) := by
  cases stop <;>
    exact ((setReg_storesNothing s _ _).trans (setReg_storesNothing _ _ _)).trans (setReg_storesNothing _ _ _)

theorem fetchInstr_storesNothing : StoresNothing s (fetchInstr s).2 := by
  have hfirst := memRead_storesNothing s s.pc
  unfold fetchInstr
  simp only
  split
  · exact (hfirst.trans (memRead_storesNothing _ _)).trans (setPc_storesNothing _ _)
  · exact hfirst.trans (setPc_storesNothing _ _)

end Operations

theorem readLoc_storesNothing {l : Loc} {s : State} {v : Word × State} (h : readLoc l s = .ok v) :
    StoresNothing s v.2 := by
  have hload : loadLoc l s = v := by
    cases l with
    | memPush addr => cases h
    | _ => exact Except.ok.inj h
  exact hload ▸ .of_envStep (loadLoc_envStep l s)

/-! ### The effect of an instruction -/

/-- What an instruction does to memory and the MPU, between a state and the one right after: nothing, one store, one
arriving message, or, for BCOPY alone, a copy. -/
inductive Effect (i : Instr) : State → State → Prop
  | none (u : State) : Effect i u u
  | store (addr v : Word) (u : State) : Effect i u (memWrite addr v u)
  | arrival (m : Word) (u : State) : Effect i u (arrive m u)
  | copy (a : OpA) (h : i = .bcopy a) (src dst : Word) (is : List Nat) (u : State) :
    Effect i u (copyWords src dst is u).2

/-- One effect, with what stores nothing before it and after it. -/
def HasOneEffect (i : Instr) (s t : State) : Prop :=
  ∃ u v, StoresNothing s u ∧ Effect i u v ∧ StoresNothing v t

/-- If there is a next state, it comes of one effect. -/
def EndsInOneEffect (i : Instr) (s : State) (o : Host.Outcome State Fault Refusal) : Prop :=
  ∀ t, o = .next t → HasOneEffect i s t

section Composition
variable {i : Instr} {s t u : State} {o : Host.Outcome State Fault Refusal}

theorem Effect.hasOneEffect (h : Effect i s t) : HasOneEffect i s t := ⟨s, t, .refl s, h, .refl t⟩

theorem StoresNothing.hasOneEffect (h : StoresNothing s t) : HasOneEffect i s t := ⟨t, t, h, .none t, .refl t⟩

theorem HasOneEffect.after (g : HasOneEffect i t u) (h : StoresNothing s t) : HasOneEffect i s u := by
  obtain ⟨x, y, hbefore, heffect, hafter⟩ := g
  exact ⟨x, y, h.trans hbefore, heffect, hafter⟩

theorem HasOneEffect.andThen (g : HasOneEffect i s t) (h : StoresNothing t u) : HasOneEffect i s u := by
  obtain ⟨x, y, hbefore, heffect, hafter⟩ := g
  exact ⟨x, y, hbefore, heffect, hafter.trans h⟩

theorem EndsInOneEffect.next (h : HasOneEffect i s t) : EndsInOneEffect i s (.next t) := by
  rintro _ ⟨⟩
  exact h

theorem EndsInOneEffect.fault (f : Fault) : EndsInOneEffect i s (.fault f) := by
  rintro _ ⟨⟩

theorem EndsInOneEffect.after (g : EndsInOneEffect i t o) (h : StoresNothing s t) : EndsInOneEffect i s o :=
  fun u hu => (g u hu).after h

end Composition

/-! ### Shapes of instruction (30_encoding.md R93) -/

section Shapes
variable {i : Instr} (s : State)

theorem storeLoc_hasOneEffect (l : Loc) (v : Word) : HasOneEffect i s (storeLoc l v s) := by
  cases l with
  | mem addr | memPush addr | memPop addr => exact (Effect.store addr v s).hasOneEffect
  | reg r => exact (setReg_storesNothing s r v).hasOneEffect
  | sp => exact (setSp_storesNothing s v).hasOneEffect
  | pc => exact (setPc_storesNothing s v).hasOneEffect
  | ex => exact (setEx_storesNothing s v).hasOneEffect
  | fl => exact (setFl_storesNothing s _).hasOneEffect
  | lit w => exact (StoresNothing.refl s).hasOneEffect

theorem writeLoc_hasOneEffect {s t : State} {l : Loc} {v : Word} (h : writeLoc l v s = .ok t) :
    HasOneEffect i s t := by
  have hstore : storeLoc l v s = t := by
    cases l with
    | memPop addr => cases h
    | _ => exact Except.ok.inj h
  exact hstore ▸ storeLoc_hasOneEffect s l v

theorem putOut_oneEffect (l : Loc) (o : AluOut) : EndsInOneEffect i s (putOut l o s) := by
  unfold putOut
  split
  next h => exact .next ((writeLoc_hasOneEffect h).after ((putEx_storesNothing s _).trans (setFl_storesNothing _ _)))
  next => exact .fault _

theorem readModifyWrite_oneEffect (base : Nat) (f : Flags → Word → Word → AluOut) (b : OpB) (a : OpA) :
    EndsInOneEffect i s (readModifyWrite base f b a s) := by
  unfold readModifyWrite
  simp only
  split
  next => exact .fault _
  next v h =>
    exact (putOut_oneEffect _ _ _).after
      (((resolve_storesNothing s b a).trans (readLoc_storesNothing h)).trans (charge_storesNothing _ _))

theorem compareOnly_oneEffect (base : Nat) (f : Flags → Word → Word → AluOut) (b : OpB) (a : OpA) :
    EndsInOneEffect i s (compareOnly base f b a s) := by
  unfold compareOnly
  simp only
  split
  next => exact .fault _
  next v h =>
    exact .next ((((resolve_storesNothing s b a).trans (readLoc_storesNothing h)).trans
      (charge_storesNothing _ _)).trans (setFl_storesNothing _ _)).hasOneEffect

theorem skipUnless_oneEffect (cond : Word → Word → Bool) (b : OpB) (a : OpA) :
    EndsInOneEffect i s (skipUnless cond b a s) := by
  unfold skipUnless
  simp only
  split
  next => exact .fault _
  next v h =>
    have hread := ((resolve_storesNothing s b a).trans (readLoc_storesNothing h)).trans
      (charge_storesNothing _ (2 + costA a + costB b))
    split
    · exact .next hread.hasOneEffect
    · exact .next ((hread.trans (skipFrom_storesNothing _ _)).trans (charge_storesNothing _ _)).hasOneEffect

theorem unaryOp_oneEffect (base : Nat) (f : Flags → Word → AluOut) (a : OpA) :
    EndsInOneEffect i s (unaryOp base f a s) := by
  unfold unaryOp
  simp only
  split
  next => exact .fault _
  next v h =>
    exact (putOut_oneEffect _ _ _).after
      (((locA_storesNothing s a).trans (readLoc_storesNothing h)).trans (charge_storesNothing _ _))

theorem jumpIf_oneEffect (cond : Flags → Bool) (a : OpA) : EndsInOneEffect i s (jumpIf cond a s) := by
  unfold jumpIf
  split
  · exact .next (((readA_storesNothing s a).trans (setPc_storesNothing _ _)).trans
      (charge_storesNothing _ _)).hasOneEffect
  · exact .next ((passA_storesNothing s a).trans (charge_storesNothing _ _)).hasOneEffect

theorem doNothing_oneEffect (cost : Nat) (a : OpA) : EndsInOneEffect i s (doNothing cost a s) :=
  .next ((passA_storesNothing s a).trans (charge_storesNothing _ _)).hasOneEffect

theorem push_hasOneEffect (v : Word) : HasOneEffect i s (push v s) :=
  (Effect.store _ v _).hasOneEffect.after (setSp_storesNothing s _)

/-- JSR and BSR store the return address and differ in PC alone. -/
theorem call_oneEffect (a : OpA) (target : Word) :
    EndsInOneEffect i s (.next (((push (readA a s).2.pc (readA a s).2).setPc target).charge (3 + costA a))) :=
  .next (((push_hasOneEffect _ _).after (readA_storesNothing s a)).andThen
    ((setPc_storesNothing _ _).trans (charge_storesNothing _ _)))

end Shapes

/-! ### Instructions with a shape of their own -/

section Single
variable {i : Instr} (b : OpB) (a : OpA) (s : State)

theorem execSet_oneEffect : EndsInOneEffect i s (execSet b a s) := by
  unfold execSet
  simp only
  split
  next h =>
    exact .next ((writeLoc_hasOneEffect h).after ((resolve_storesNothing s b a).trans (charge_storesNothing _ _)))
  next => exact .fault _

theorem execLdb_oneEffect : EndsInOneEffect i s (execLdb b a s) :=
  (putOut_oneEffect _ _ _).after
    (((resolve_storesNothing s b a).trans (memRead_storesNothing _ _)).trans (charge_storesNothing _ _))

theorem execReserved1F_oneEffect : EndsInOneEffect i s (execReserved1F b a s) :=
  .next ((resolve_storesNothing s b a).trans (charge_storesNothing _ _)).hasOneEffect

theorem execStb_oneEffect : EndsInOneEffect i s (execStb a s) :=
  .next (((Effect.store _ _ _).hasOneEffect.after
    ((readA_storesNothing s a).trans (memRead_storesNothing _ _))).andThen (charge_storesNothing _ _))

theorem execInt_oneEffect : EndsInOneEffect i s (execInt a s) :=
  .next (((Effect.arrival _ _).hasOneEffect.after (readA_storesNothing s a)).andThen (charge_storesNothing _ _))

theorem execIag_oneEffect : EndsInOneEffect i s (execIag a s) := by
  unfold execIag
  simp only
  split
  next h =>
    exact .next ((writeLoc_hasOneEffect h).after ((locA_storesNothing s a).trans (charge_storesNothing _ _)))
  next => exact .fault _

theorem execIas_oneEffect : EndsInOneEffect i s (execIas a s) :=
  .next (((readA_storesNothing s a).trans (setIa_storesNothing _ _)).trans (charge_storesNothing _ _)).hasOneEffect

theorem execIaq_oneEffect : EndsInOneEffect i s (execIaq a s) :=
  .next (((readA_storesNothing s a).trans (setIq_storesNothing _ _)).trans (charge_storesNothing _ _)).hasOneEffect

theorem execRfi_oneEffect : EndsInOneEffect i s (execRfi a s) :=
  .next (((passA_storesNothing s a).trans (returnFromInterrupt_storesNothing _)).trans
    (charge_storesNothing _ _)).hasOneEffect

theorem execNop_oneEffect : EndsInOneEffect i s (execNop a s) :=
  .next ((readA_storesNothing s a).trans (charge_storesNothing _ _)).hasOneEffect

theorem execHlt_oneEffect : EndsInOneEffect i s (execHlt a s) :=
  .next (((passA_storesNothing s a).trans (setHalted_storesNothing _ _)).trans (charge_storesNothing _ _)).hasOneEffect

theorem execBrk_oneEffect : EndsInOneEffect i s (execBrk a s) := by
  have hpass := (passA_storesNothing s a).trans (charge_storesNothing _ 1)
  unfold execBrk
  simp only
  split
  · exact .next ((hpass.trans (emit_storesNothing _ _)).trans (setHostStop_storesNothing _ _)).hasOneEffect
  · exact .next hpass.hasOneEffect

theorem execBcopy_oneEffect : EndsInOneEffect (.bcopy a) s (execBcopy a s) :=
  .next (((Effect.copy a rfl _ _ _ _).hasOneEffect.after (passA_storesNothing s a)).andThen
    ((copyEnd_storesNothing _ _ _ _ _ _).trans (charge_storesNothing _ _)))

end Single

/-- Every instruction has one effect on memory and the MPU, each by the lemma of its shape. -/
theorem exec_oneEffect (i : Instr) (s : State) : EndsInOneEffect i s (exec i s) := by
  cases i with
  | set b a => exact execSet_oneEffect b a s
  | add b a | sub b a | mul b a | mli b a | div b a | dvi b a | mod b a | mdi b a | and b a | bor b a | xor b a
  | shr b a | asr b a | shl b a | adc b a | sbb b a | fxmul b a | fxdiv b a =>
    exact readModifyWrite_oneEffect s _ _ b a
  | cmp b a | tst b a => exact compareOnly_oneEffect s _ _ b a
  | ifb b a | ifc b a | ife b a | ifn b a | ifg b a | ifa b a | ifl b a | ifu b a =>
    exact skipUnless_oneEffect s _ b a
  | ldb b a => exact execLdb_oneEffect b a s
  | reserved1F b a => exact execReserved1F_oneEffect b a s
  | nop a => exact execNop_oneEffect a s
  | jsr a | bsr a => exact call_oneEffect s a _
  | jz a | jnz a | jc a | jnc a | js a | jns a | jo a | ja a | jbe a | jge a | jl a | jg a | jle a =>
    exact jumpIf_oneEffect s _ a
  | int a => exact execInt_oneEffect a s
  | iag a => exact execIag_oneEffect a s
  | ias a => exact execIas_oneEffect a s
  | rfi a => exact execRfi_oneEffect a s
  | iaq a => exact execIaq_oneEffect a s
  | reserved15 a | reserved16 a | reserved17 a => exact doNothing_oneEffect s _ a
  | neg a | not a | sxb a | swp a => exact unaryOp_oneEffect s _ _ a
  | bcopy a => exact execBcopy_oneEffect a s
  | brk a => exact execBrk_oneEffect a s
  | hlt a => exact execHlt_oneEffect a s
  | stb a => exact execStb_oneEffect a s

/-! ### The invariant between two steps -/

theorem StoresNothing.sound {s t : State} (h : StoresNothing s t) (g : Sound s) : Sound t where
  memory := by rw [h.mem]; exact g.memory
  installed := by rw [h.mem, h.cfg]; exact g.installed
  queue := by rw [h.queue]; exact g.queue

theorem copyWord_sound {s : State} (src dst : Word) (i : Nat) (g : Sound s) : Sound (copyWord src dst i s).2 := by
  have hread : Sound (memRead (src + BitVec.ofNat 16 i) s).2 := (memRead_storesNothing s _).sound g
  unfold copyWord
  simp only
  split
  · exact hread
  · exact Sound.storeStep (memWrite_storeStep _ _ _) hread

theorem copyWords_sound {s : State} (src dst : Word) (is : List Nat) (g : Sound s) :
    Sound (copyWords src dst is s).2 := by
  induction is generalizing s with
  | nil => exact g
  | cons i is ih =>
    have hword : Sound (copyWord src dst i s).2 := copyWord_sound src dst i g
    simp only [copyWords]
    split
    · exact hword
    · exact ih hword

theorem Effect.sound {i : Instr} {s t : State} (h : Effect i s t) (g : Sound s) : Sound t := by
  cases h with
  | none => exact g
  | store addr v => exact Sound.storeStep (memWrite_storeStep addr v s) g
  | arrival m => exact Sound.arrive m g
  | copy a ha src dst is => exact copyWords_sound src dst is g

/-- The standing part of the invariant holds after every instruction. -/
theorem exec_sound {i : Instr} {s t : State} (g : Sound s) (h : exec i s = .next t) : Sound t := by
  obtain ⟨u, v, hbefore, heffect, hafter⟩ := exec_oneEffect i s t h
  exact hafter.sound (heffect.sound (hbefore.sound g))

/-- A halted CPU that an interrupt could wake has nothing it could be woken by (49_block_system.md R274). -/
def Waiting (s : State) : Prop := s.halted = true → s.ia ≠ 0x0000#16 → s.iq = true ∨ s.queue = []

theorem Waiting.of_not_halted {s : State} (h : s.halted = false) : Waiting s := by
  intro hhalted
  rw [h] at hhalted
  cases hhalted

theorem Waiting.of_ia_zero {s : State} (h : s.ia = 0x0000#16) : Waiting s := fun _ hia => absurd h hia

theorem Waiting.of_iq {s : State} (h : s.iq = true) : Waiting s := fun _ _ => .inl h

theorem dispatch_halted (m : Word) (s : State) : (dispatch m s).halted = false := by
  unfold dispatch
  simp only
  repeat' split
  all_goals exact enterHandler_halted m (s.setIq true)

theorem enqueueMsg_iq (m : Word) (s : State) : (enqueueMsg m s).iq = s.iq := by
  unfold enqueueMsg
  split
  · rfl
  · split
    · rfl
    · split
      · exact enterHandler_iq 0xFFFF#16 s
      · rfl

theorem enqueue_iq (m : Word) (s : State) : (enqueue m s).iq = s.iq := by
  unfold enqueue
  simp only
  split <;> exact enqueueMsg_iq m s

/-- An arriving message is dropped with IA = 0, waits with IQ set, and else wakes the CPU (60_exceptions.md R306). -/
theorem arrive_waiting (m : Word) {s : State} (h : Waiting s) : Waiting (arrive m s) := by
  unfold arrive
  split
  · exact h
  · split
    next hiq => exact .of_iq ((enqueue_iq m s).trans hiq)
    next => exact .of_not_halted (dispatch_halted m s)

/-- The first half of the boundary leaves nothing to be woken by, whatever was there before. -/
theorem deliverQueued_waiting (s : State) : Waiting (deliverQueued s) := by
  unfold deliverQueued
  split
  next hiq => exact .of_iq hiq
  next =>
    split
    next hqueue => exact fun _ _ => .inr hqueue
    next m rest hqueue =>
      unfold deliver
      split
      next hia => exact .of_ia_zero hia
      next => exact .of_not_halted (dispatch_halted m _)

theorem foldl_arrive_waiting (ms : List Word) {s : State} (h : Waiting s) :
    Waiting (ms.foldl (fun t m => arrive m t) s) := by
  induction ms generalizing s with
  | nil => exact h
  | cons m ms ih => exact ih (arrive_waiting m h)

theorem takeArrivals_waiting {s : State} (h : Waiting s) : Waiting (takeArrivals s) := by
  unfold takeArrivals
  split
  · exact h
  · exact foldl_arrive_waiting _ h

theorem boundary_waiting (s : State) : Waiting (boundary s) := takeArrivals_waiting (deliverQueued_waiting s)

theorem sound_of_inv {s : State} (h : Inv s) : Sound s := ⟨h.memory, h.installed, h.queue⟩

theorem inv_of_sound {s : State} (g : Sound s) (hmpuf : s.mpuf = false) (hwaiting : Waiting s) : Inv s :=
  ⟨g.memory, g.installed, g.queue, hmpuf, hwaiting⟩

theorem boundary_inv {s : State} (h : Inv s) : Inv (boundary s) :=
  inv_of_sound (Sound.boundary (sound_of_inv h)) (boundary_mpuf s h.mpuf) (boundary_waiting s)

/-- The end of an instruction reports the noted violation and leaves nothing to be woken by. -/
theorem endOfInstruction_inv {s : State} (g : Sound s) : Inv (endOfInstruction s) :=
  inv_of_sound (Sound.endOfInstruction g) (endOfInstruction_mpuf s) (boundary_waiting (reportViolation s))

/-- A step with a next state is no step at all, a boundary, or an instruction and its end. -/
theorem step_cases {s t : State} (h : step s = .next t) :
    t = s ∨ t = boundary s ∨ ∃ u, exec (fetchInstr s).1 (fetchInstr s).2 = .next u ∧ t = endOfInstruction u := by
  unfold step at h
  split at h
  · exact .inl (Host.Outcome.next.inj h).symm
  · exact .inl (Host.Outcome.next.inj h).symm
  · split at h
    · exact .inr (.inl (Host.Outcome.next.inj h).symm)
    · cases hexec : exec (fetchInstr s).1 (fetchInstr s).2 with
      | next u =>
        rw [hexec] at h
        exact .inr (.inr ⟨u, rfl, (Host.Outcome.next.inj h).symm⟩)
      | fault f => rw [hexec] at h; cases h
      | refused r => rw [hexec] at h; cases h

/-- Settles O10: the fetch and the instruction keep the standing part (`exec_sound`), the end of the instruction brings
back the rest (`endOfInstruction_inv`), and a halted CPU's step is the boundary alone (`boundary_inv`). -/
theorem stepKeepsInvariant : Obligations.StepKeepsInvariant := by
  intro s t hs hstep
  obtain rfl | rfl | ⟨u, hexec, rfl⟩ := step_cases hstep
  · exact hs
  · exact boundary_inv hs
  · exact endOfInstruction_inv (exec_sound ((fetchInstr_storesNothing s).sound (sound_of_inv hs)) hexec)

/-! ### The confinement of stores -/

theorem StoresNothing.mpuViolation_eq {s t : State} (h : StoresNothing s t) (addr : Word) (k : Access) :
    mpuViolation addr k t = mpuViolation addr k s := mpuViolation_congr h.mpuBase h.mpuLimit h.mpuCtrl addr k

/-- Every word whose store would be a violation is as before. -/
def ProtectedKept (s t : State) : Prop :=
  ∀ w : Word, mpuViolation w .write s = true → t.mem.readWord w.toNat = s.mem.readWord w.toNat

section Protected
variable {s t u : State}

theorem ProtectedKept.of_mem (h : t.mem = s.mem) : ProtectedKept s t := fun _ _ => by rw [h]

/-- The second change keeps what is protected from the first, if the two states agree on what that is. -/
theorem ProtectedKept.trans (h : ProtectedKept s t) (g : ProtectedKept t u)
    (hmpu : ∀ w, mpuViolation w .write t = mpuViolation w .write s) : ProtectedKept s u :=
  fun w hw => (g w ((hmpu w).trans hw)).trans (h w hw)

theorem memWrite_mmio_mem {addr : Word} (h : 0xE000 ≤ addr.toNat) (v : Word) (s : State) :
    (memWrite addr v s).mem = s.mem := by
  rw [memWrite_mmio h]
  unfold devWrite scbWrite
  repeat' split
  all_goals rfl

/-- A store reaches no protected word: one to a protected word is suppressed, any other is to another word. -/
theorem memWrite_protectedKept (addr v : Word) (s : State) : ProtectedKept s (memWrite addr v s) := by
  by_cases hviol : mpuViolation addr .write s = true
  · rw [memWrite_violation hviol]
    exact .of_mem (noteViolation_envStep s).mem
  · have hpass : mpuViolation addr .write s = false := by simpa using hviol
    by_cases hmmio : 0xE000 ≤ addr.toNat
    · exact .of_mem (memWrite_mmio_mem hmmio v s)
    · by_cases hram : addr.toNat < s.cfg.ram.words
      · intro w hw
        have hne : w.toNat ≠ addr.toNat := fun h => hviol (BitVec.eq_of_toNat_eq h ▸ hw)
        rw [memWrite_plain ⟨hram, hpass⟩, State.setMem_mem, Memory.readWord_writeWord, if_neg hne]
      · rw [memWrite_uninstalled (by omega) (by omega) v hpass]
        exact .of_mem rfl

theorem push_protectedKept (v : Word) (s : State) : ProtectedKept s (push v s) :=
  memWrite_protectedKept (s.sp - 1#16) v (s.setSp (s.sp - 1#16))

/-- A push that does not land on a register of the MPU leaves the MPU as it was. -/
theorem push_mpuViolation {s : State} (h : s.sp - 1#16 ∉ [0xE006#16, 0xE007#16, 0xE008#16]) (v : Word) (w : Word) :
    mpuViolation w .write (push v s) = mpuViolation w .write s := by
  simp only [List.mem_cons, List.not_mem_nil, or_false, not_or] at h
  obtain ⟨hbase, hlimit, hctrl⟩ := h
  have hkept := (push_storeStep v s).control
  exact mpuViolation_congr (hkept.base (by simpa using Ne.symm hbase)) (hkept.limit (by simpa using Ne.symm hlimit))
    (hkept.ctrl (by simpa using Ne.symm hctrl)) w .write

/-- The two pushes of an interrupt's frame. The first may land on a register of the MPU, but then the second, one word
below, is in the MMIO window too and reaches no RAM. -/
theorem enterHandler_protectedKept (m : Word) (s : State) : ProtectedKept s (enterHandler m s) := by
  have hsecond : (enterHandler m s).mem = (push ((push s.pc s).reg .A) (push s.pc s)).mem := rfl
  suffices ProtectedKept s (push ((push s.pc s).reg .A) (push s.pc s)) from
    fun w hw => by rw [hsecond]; exact this w hw
  by_cases hmpu : s.sp - 1#16 ∈ [0xE006#16, 0xE007#16, 0xE008#16]
  · have hwindow : 0xE000 ≤ ((push s.pc s).sp - 1#16).toNat := by
      rw [push_sp]
      simp only [List.mem_cons, List.not_mem_nil, or_false] at hmpu
      obtain h | h | h := hmpu <;> rw [h] <;> decide
    intro w hw
    rw [push, memWrite_mmio_mem hwindow, State.setSp_mem]
    exact push_protectedKept _ s w hw
  · exact (push_protectedKept _ s).trans (push_protectedKept _ _) (push_mpuViolation hmpu _)

theorem dispatch_protectedKept (m : Word) (s : State) : ProtectedKept s (dispatch m s) := by
  have henter : ProtectedKept s (enterHandler m (s.setIq true)) := enterHandler_protectedKept m (s.setIq true)
  unfold dispatch
  simp only
  repeat' split
  all_goals exact henter

theorem enqueueMsg_protectedKept (m : Word) (s : State) : ProtectedKept s (enqueueMsg m s) := by
  unfold enqueueMsg
  split
  · exact .of_mem rfl
  · split
    · exact .of_mem rfl
    · split
      · exact enterHandler_protectedKept 0xFFFF#16 s
      · exact .of_mem rfl

theorem enqueue_protectedKept (m : Word) (s : State) : ProtectedKept s (enqueue m s) := by
  unfold enqueue
  simp only
  split <;> exact enqueueMsg_protectedKept m s

theorem arrive_protectedKept (m : Word) (s : State) : ProtectedKept s (arrive m s) := by
  unfold arrive
  split
  · exact .of_mem rfl
  · split
    · exact enqueue_protectedKept m s
    · exact dispatch_protectedKept m s

theorem Effect.protectedKept {i : Instr} (h : Effect i s t) (hcopy : ∀ a, i ≠ .bcopy a) : ProtectedKept s t := by
  cases h with
  | none => exact .of_mem rfl
  | store addr v => exact memWrite_protectedKept addr v s
  | arrival m => exact arrive_protectedKept m s
  | copy a ha => exact absurd ha (hcopy a)

theorem exec_protectedKept {i : Instr} (hcopy : ∀ a, i ≠ .bcopy a) (h : exec i s = .next t) : ProtectedKept s t := by
  obtain ⟨u, v, hbefore, heffect, hafter⟩ := exec_oneEffect i s t h
  intro w hw
  calc t.mem.readWord w.toNat = v.mem.readWord w.toNat := by rw [hafter.mem]
    _ = u.mem.readWord w.toNat := heffect.protectedKept hcopy w ((hbefore.mpuViolation_eq w _).trans hw)
    _ = s.mem.readWord w.toNat := by rw [hbefore.mem]

end Protected

/-- Settles O18: a word the statement speaks of is one whose store would be a violation (`mpuViolation_iff`), and the one
effect of an instruction keeps it (`exec_protectedKept`). -/
theorem mpuConfinesStores : Obligations.MpuConfinesStores := by
  intro i s t w hcopy henabled hlow hout hexec
  have hw : (BitVec.ofNat 16 w).toNat = w := by
    rw [BitVec.toNat_ofNat]
    omega
  have hviol : mpuViolation (BitVec.ofNat 16 w) .write s = true := by
    rw [mpuViolation_iff, hw]
    exact ⟨henabled, hlow, hout, by simp⟩
  have hkept := exec_protectedKept hcopy hexec (BitVec.ofNat 16 w) hviol
  rwa [hw] at hkept

end Sys2Proof.Proofs.MemoryEffect
end

-- Decoding and encoding are each other's inverse (30_encoding.md R80 to R88, R100, R101).
section
namespace Sys2Proof.Proofs.Encoding

open Sys2Proof Sys2Proof.Machine

/-! ### The decoder of a list of words (R84, R86)

It cuts the words after the first into `a`'s next word, `b`'s next word, each there or not as the first word says, and
the rest. -/

section Words
variable {w : Word} {wa wb : List Word}

/-- Where the words the first word calls for stand, they are taken as the operands' and the rest is left. -/
theorem decode_append (ha : wa.length = (nwA (fieldA w)).toNat) (hb : wb.length = (hasNextB w).toNat)
    (rest : List Word) :
    decode (w :: (wa ++ (wb ++ rest))) = .ok (decodeInstr w (wa.headD 0#16) (wb.headD 0#16), rest) := by
  unfold decode
  cases hnwA : nwA (fieldA w) <;> rw [hnwA] at ha <;> cases hnextB : hasNextB w <;> rw [hnextB] at hb
  case false.false =>
    obtain rfl := List.eq_nil_of_length_eq_zero ha
    obtain rfl := List.eq_nil_of_length_eq_zero hb
    simp [hnwA, hnextB]
  case false.true =>
    obtain rfl := List.eq_nil_of_length_eq_zero ha
    obtain ⟨nb, rfl⟩ := List.length_eq_one_iff.mp hb
    simp [hnwA, hnextB]
  case true.false =>
    obtain ⟨na, rfl⟩ := List.length_eq_one_iff.mp ha
    obtain rfl := List.eq_nil_of_length_eq_zero hb
    simp [hnwA, hnextB]
  case true.true =>
    obtain ⟨na, rfl⟩ := List.length_eq_one_iff.mp ha
    obtain ⟨nb, rfl⟩ := List.length_eq_one_iff.mp hb
    simp [hnwA, hnextB]

/-- Whatever decodes is such a list of words. -/
theorem exists_of_decode_eq_ok {ws rest : List Word} {i : Instr} (h : decode ws = .ok (i, rest)) :
    ∃ w wa wb, ws = w :: (wa ++ (wb ++ rest)) ∧ wa.length = (nwA (fieldA w)).toNat ∧
      wb.length = (hasNextB w).toNat ∧ i = decodeInstr w (wa.headD 0#16) (wb.headD 0#16) := by
  unfold decode at h
  split at h
  next => cases h
  next w ws =>
    refine ⟨w, ?_⟩
    split at h
    next => cases h
    next na ws' hnwA =>
      split at h
      next => cases h
      next nb rest' hnextB => cases h; exact ⟨[na], [nb], by simp [hnwA, hnextB]⟩
      next rest' hnextB => cases h; exact ⟨[na], [], by simp [hnwA, hnextB]⟩
    next ws' hnwA =>
      split at h
      next => cases h
      next nb rest' hnextB => cases h; exact ⟨[], [nb], by simp [hnwA, hnextB]⟩
      next rest' hnextB => cases h; exact ⟨[], [], by simp [hnwA, hnextB]⟩

end Words

/-! ### The fields of what is decoded (R87, R88) -/

/-- A field is one of finitely many numerals, so that its cases can be gone through. -/
theorem exists_eq_ofNat {n : Nat} (x : BitVec n) : ∃ k, k < 2 ^ n ∧ x = BitVec.ofNat n k :=
  ⟨x.toNat, x.isLt, by rw [BitVec.ofNat_toNat, BitVec.setWidth_eq]⟩

theorem field_decodeA (af : BitVec 6) (nw : Word) : (decodeA af nw).field = af := by
  obtain ⟨k, hk, rfl⟩ := exists_eq_ofNat af
  interval_cases k <;> rfl

theorem wf_decodeA (af : BitVec 6) (nw : Word) : (decodeA af nw).wf = true := by
  obtain ⟨k, hk, rfl⟩ := exists_eq_ofNat af
  interval_cases k <;> rfl

theorem next_decodeA (af : BitVec 6) (nw : Word) : (decodeA af nw).next = if nwA af then [nw] else [] := by
  obtain ⟨k, hk, rfl⟩ := exists_eq_ofNat af
  interval_cases k <;> rfl

theorem field_decodeB (bf : BitVec 5) (nw : Word) : (decodeB bf nw).field = bf := by
  obtain ⟨k, hk, rfl⟩ := exists_eq_ofNat bf
  interval_cases k <;> rfl

theorem next_decodeB (bf : BitVec 5) (nw : Word) : (decodeB bf nw).next = if nwB bf then [nw] else [] := by
  obtain ⟨k, hk, rfl⟩ := exists_eq_ofNat bf
  interval_cases k <;> rfl

/-! ### The opcode map (R100) -/

theorem encode_decodeBasic {o : BitVec 5} (ho : o ≠ 0#5) (b : OpB) (a : OpA) :
    encode (decodeBasic o b a) = encodeBasic o b a := by
  obtain ⟨k, hk, rfl⟩ := exists_eq_ofNat o
  interval_cases k
  · exact absurd rfl ho
  all_goals rfl

theorem operandA_decodeBasic (o : BitVec 5) (b : OpB) (a : OpA) : (decodeBasic o b a).operandA = a := by
  obtain ⟨k, hk, rfl⟩ := exists_eq_ofNat o
  interval_cases k <;> rfl

theorem encode_decodeSpecial (sub : BitVec 5) (a : OpA) : encode (decodeSpecial sub a) = encodeSpecial sub a := by
  obtain ⟨k, hk, rfl⟩ := exists_eq_ofNat sub
  interval_cases k <;> rfl

theorem operandA_decodeSpecial (sub : BitVec 5) (a : OpA) : (decodeSpecial sub a).operandA = a := by
  obtain ⟨k, hk, rfl⟩ := exists_eq_ofNat sub
  interval_cases k <;> rfl

/-- Every instruction is a row of the map: a basic one under an opcode that is not 0, or a special one under a
sub-opcode. -/
theorem opcode_cases (i : Instr) :
    (∃ o b, encode i = encodeBasic o b i.operandA ∧ o ≠ 0#5 ∧ decodeBasic o b i.operandA = i ∧
      operandB i = some b) ∨
    ∃ sub, encode i = encodeSpecial sub i.operandA ∧ decodeSpecial sub i.operandA = i ∧ operandB i = none := by
  cases i with
  | set | add | sub | mul | mli | div | dvi | mod | mdi | and | bor | xor | shr | asr | shl | ifb | ifc | ife | ifn
  | ifg | ifa | ifl | ifu | adc | sbb | cmp | tst | fxmul | fxdiv | ldb | reserved1F =>
    exact .inl ⟨_, _, rfl, by decide, rfl, rfl⟩
  | _ => exact .inr ⟨_, rfl, rfl, rfl⟩

/-! ### The first word of an instruction -/

/-- What `w`, as the first word of `i`, says of it: `a`'s field, whether `b` has a next word, and, with the next words,
the instruction. -/
structure IsFirstWord (w : Word) (i : Instr) : Prop where
  fieldA : fieldA w = i.operandA.field
  hasNextB : hasNextB w = !(nextB i).isEmpty
  decode : ∀ na nb, i.wf = true → (∀ x ∈ i.operandA.next, x = na) → (∀ x ∈ nextB i, x = nb) →
    decodeInstr w na nb = i

/-- At most one word, which must be `nw`: the form in which the operand laws ask for a next word. -/
theorem eq_nil_or_singleton {l : List Word} (hlen : l.length ≤ 1) {nw : Word} (h : ∀ x ∈ l, x = nw) :
    l = [] ∨ l = [nw] := by
  match l, hlen, h with
  | [], _, _ => exact .inl rfl
  | [x], _, h => exact .inr (by rw [h x (List.mem_singleton_self x)])

theorem decodeA_field_operandA {i : Instr} (hwf : i.wf = true) {na : Word} (hna : ∀ x ∈ i.operandA.next, x = na) :
    decodeA i.operandA.field na = i.operandA :=
  i.operandA.decode_field hwf na (eq_nil_or_singleton i.operandA.next_length_le hna)

/-- An instruction is its first word, then `a`'s next word, then `b`'s (R84). -/
theorem encode_eq_cons (i : Instr) :
    ∃ w, encode i = w :: (i.operandA.next ++ nextB i) ∧ IsFirstWord w i := by
  obtain ⟨o, b, hencode, ho, hdecode, hB⟩ | ⟨sub, hencode, hdecode, hB⟩ := opcode_cases i
  · have hnext : nextB i = b.next := by rw [nextB, hB]
    refine ⟨packFields i.operandA.field b.field o, by rw [hencode, encodeBasic, hnext], fieldA_packFields _ _ _, ?_, ?_⟩
    · rw [hasNextB, fieldO_packFields, fieldB_packFields, bne_iff_ne.mpr ho, Bool.true_and, b.nwB_field, hnext]
    · intro na nb hwf hna hnb
      rw [hnext] at hnb
      rw [decodeInstr, fieldO_packFields, if_neg ho, fieldA_packFields, fieldB_packFields,
        decodeA_field_operandA hwf hna, b.decode_field nb (eq_nil_or_singleton b.next_length_le hnb), hdecode]
  · have hnext : nextB i = [] := by rw [nextB, hB]
    refine ⟨packFields i.operandA.field sub 0#5, by rw [hencode, encodeSpecial, hnext, List.append_nil],
      fieldA_packFields _ _ _, ?_, ?_⟩
    · rw [hasNextB, fieldO_packFields, hnext]
      rfl
    · intro na nb hwf hna _
      rw [decodeInstr, fieldO_packFields, if_pos rfl, fieldA_packFields, fieldB_packFields,
        decodeA_field_operandA hwf hna, hdecode]

theorem nextB_length_le (i : Instr) : (nextB i).length ≤ 1 := by
  unfold nextB
  split
  next b _ => exact b.next_length_le
  next => exact Nat.zero_le 1

/-- A list of at most one word has the length its being there says, and holds no word but its first. -/
theorem length_of_le_one {l : List Word} (hlen : l.length ≤ 1) :
    l.length = (!l.isEmpty).toNat ∧ ∀ x ∈ l, x = l.headD 0#16 := by
  match l, hlen with
  | [], _ => simp
  | [x], _ => simp

/-- Settles O1: the words of an instruction are its first word and its operands' next words (`encode_eq_cons`), which
is how the decoder cuts them (`decode_append`). -/
theorem decodeInvertsEncode : Obligations.DecodeInvertsEncode := by
  intro i rest hwf
  obtain ⟨w, hencode, hw⟩ := encode_eq_cons i
  obtain ⟨hlenA, hnextA⟩ := length_of_le_one i.operandA.next_length_le
  obtain ⟨hlenB, hnextB⟩ := length_of_le_one (nextB_length_le i)
  rw [← i.operandA.nwA_field hwf, ← hw.fieldA] at hlenA
  rw [← hw.hasNextB] at hlenB
  rw [hencode, List.cons_append, List.append_assoc, decode_append hlenA hlenB, hw.decode _ _ hwf hnextA hnextB]

/-! ### What is decoded -/

/-- A list is its first word where the field calls for one, and empty where not. -/
theorem ite_headD {l : List Word} {p : Bool} (h : l.length = p.toNat) :
    (if p then [l.headD 0#16] else []) = l := by
  cases p with
  | false => exact (List.eq_nil_of_length_eq_zero h).symm
  | true =>
    obtain ⟨x, rfl⟩ := List.length_eq_one_iff.mp h
    rfl

theorem wf_decodeInstr (w na nb : Word) : (decodeInstr w na nb).wf = true := by
  unfold decodeInstr Instr.wf
  split
  · rw [operandA_decodeSpecial]
    exact wf_decodeA _ _
  · rw [operandA_decodeBasic]
    exact wf_decodeA _ _

/-- Encoding what was decoded packs the fields of the first word again and puts back the next words that were there. -/
theorem encode_decodeInstr {w : Word} {wa wb : List Word} (ha : wa.length = (nwA (fieldA w)).toNat)
    (hb : wb.length = (hasNextB w).toNat) :
    encode (decodeInstr w (wa.headD 0#16) (wb.headD 0#16)) = w :: (wa ++ wb) := by
  unfold decodeInstr
  split
  next ho =>
    have hnone : hasNextB w = false := by rw [hasNextB, ho]; rfl
    rw [hnone] at hb
    obtain rfl := List.eq_nil_of_length_eq_zero hb
    rw [encode_decodeSpecial, encodeSpecial, field_decodeA, next_decodeA, ite_headD ha, ← ho,
      packFields_fields, List.append_nil]
  next ho =>
    have hnwB : hasNextB w = nwB (fieldB w) := by rw [hasNextB, bne_iff_ne.mpr ho, Bool.true_and]
    rw [hnwB] at hb
    rw [encode_decodeBasic ho, encodeBasic, field_decodeA, field_decodeB, next_decodeA, next_decodeB,
      ite_headD ha, ite_headD hb, packFields_fields]

/-- Settles O2: the words are cut as `exists_of_decode_eq_ok` says, and the encoder joins the same pieces
(`encode_decodeInstr`). -/
theorem encodeInvertsDecode : Obligations.EncodeInvertsDecode := by
  intro ws i rest h
  obtain ⟨w, wa, wb, rfl, ha, hb, rfl⟩ := exists_of_decode_eq_ok h
  exact ⟨wf_decodeInstr w _ _, by rw [encode_decodeInstr ha hb, List.cons_append, List.append_assoc]⟩

/-! ### The length (R86, R101) -/

theorem nwA_toNat (af : BitVec 6) :
    (nwA af).toNat = if (0x10 ≤ af.toNat ∧ af.toNat ≤ 0x17) ∨ af.toNat = 0x1A ∨ af.toNat = 0x1E ∨ af.toNat = 0x1F
      then 1 else 0 := by
  simp [nwA, Bool.toNat, or_assoc, Bool.cond_eq_ite]

theorem hasNextB_toNat (w : Word) :
    (hasNextB w).toNat = if (fieldO w).toNat ≠ 0 ∧ ((0x10 ≤ (fieldB w).toNat ∧ (fieldB w).toNat ≤ 0x17) ∨
      (fieldB w).toNat = 0x1A ∨ (fieldB w).toNat = 0x1E) then 1 else 0 := by
  have ho : fieldO w = 0#5 ↔ (fieldO w).toNat = 0 := by rw [← BitVec.toNat_inj]; rfl
  simp [hasNextB, nwB, Bool.toNat, ho, or_assoc, Bool.cond_eq_ite]

/-- Words that are enough decode, and what is left is what stands after those the first word calls for. -/
theorem decode_of_le {w : Word} {ws : List Word} (h : (nwA (fieldA w)).toNat + (hasNextB w).toNat ≤ ws.length) :
    ∃ i, decode (w :: ws) = .ok (i, ws.drop ((nwA (fieldA w)).toNat + (hasNextB w).toNat)) := by
  generalize hm : (nwA (fieldA w)).toNat = m at h
  generalize hn : (hasNextB w).toNat = n at h
  have ha : (ws.take m).length = (nwA (fieldA w)).toNat := by rw [List.length_take]; omega
  have hb : ((ws.drop m).take n).length = (hasNextB w).toNat := by rw [List.length_take, List.length_drop]; omega
  have hcut : ws = ws.take m ++ ((ws.drop m).take n ++ ws.drop (m + n)) := by
    rw [← List.drop_drop, List.take_append_drop, List.take_append_drop]
  have hdecode := decode_append ha hb (ws.drop (m + n))
  rw [← hcut] at hdecode
  exact ⟨_, hdecode⟩

/-- Words that are too few decode to nothing. -/
theorem decode_of_lt {w : Word} {ws : List Word} (h : ws.length < (nwA (fieldA w)).toNat + (hasNextB w).toNat) :
    ∃ e, decode (w :: ws) = .error e := by
  cases hdecode : decode (w :: ws) with
  | error e => exact ⟨e, rfl⟩
  | ok r =>
    obtain ⟨w', wa, wb, hws, ha, hb, -⟩ := exists_of_decode_eq_ok hdecode
    obtain ⟨rfl, rfl⟩ := List.cons.inj hws
    rw [List.length_append, List.length_append] at h
    omega

/-- Settles O3: R86's numbers are the decoder's own tests (`nwA_toNat`, `hasNextB_toNat`), and the words decode or not
as they are enough (`decode_of_le`, `decode_of_lt`). -/
theorem firstWordDecidesLength : Obligations.FirstWordDecidesLength := by
  intro w ws
  dsimp only
  rw [← nwA_toNat, ← hasNextB_toNat]
  exact ⟨rfl, decode_of_le, decode_of_lt⟩

/-- Settles O4: the decoder computes each of the eight. -/
theorem printedWordsDecode : Obligations.PrintedWordsDecode :=
  ⟨rfl, rfl, rfl, rfl, rfl, rfl, rfl, rfl⟩

end Sys2Proof.Proofs.Encoding
end

-- A step runs the instruction decoded from the words at PC (30_encoding.md R85, R91, R94).
section
namespace Sys2Proof.Proofs.StepDecoded

open Sys2Proof Sys2Proof.Machine Sys2Proof.Proofs.Encoding Sys2Proof.Proofs.MemoryAccess
  Sys2Proof.Proofs.BlockedFetch

/-! ### The fetch -/

/-- The last word read before the meaning of an instruction with operand `a` begins: `a`'s next word, or the first word
where `a` has none. -/
def lastRead (a : OpA) (s : State) : Word × State :=
  if a.next = [] then memRead s.pc s else memRead (s.pc + 1#16) (memRead s.pc s).2

/-- Where that meaning begins: with PC past the first word. -/
def meaningStart (a : OpA) (s : State) : State := (lastRead a s).2.setPc (s.pc + 1#16)

/-- A first word that says `a` has a next word makes the fetch read it, and one that does not reads nothing more. -/
theorem fetchNextA_eq {s : State} {i : Instr} (hwf : i.wf = true) (hfirst : IsFirstWord (memRead s.pc s).1 i)
    (hnextA : ∀ x ∈ i.operandA.next, x = (lastRead i.operandA s).1) :
    ∃ na, (if nwA (fieldA (memRead s.pc s).1) then memRead (s.pc + 1#16) (memRead s.pc s).2
        else (0x0000#16, (memRead s.pc s).2)) = (na, (lastRead i.operandA s).2) ∧
      ∀ x ∈ i.operandA.next, x = na := by
  rw [hfirst.fieldA, i.operandA.nwA_field hwf]
  by_cases hnil : i.operandA.next = []
  · exact ⟨0x0000#16, by simp [hnil, lastRead], by simp [hnil]⟩
  · exact ⟨(lastRead i.operandA s).1, by simp [hnil, lastRead], hnextA⟩

/-- The fetch yields the instruction whose words it reads, `b`'s next word among them, which the meaning will read where
`a`'s evaluation leaves PC. -/
theorem fetchInstr_eq {s : State} {i : Instr} (hwf : i.wf = true) (hfirst : IsFirstWord (memRead s.pc s).1 i)
    (hnextA : ∀ x ∈ i.operandA.next, x = (lastRead i.operandA s).1)
    (hnextB : ∀ x ∈ nextB i, x = (memRead (readA i.operandA (meaningStart i.operandA s)).2.pc
      (readA i.operandA (meaningStart i.operandA s)).2).1) :
    fetchInstr s = (i, meaningStart i.operandA s) := by
  obtain ⟨na, hread, hna⟩ := fetchNextA_eq hwf hfirst hnextA
  have hoperandA : decodeA (fieldA (memRead s.pc s).1) na = i.operandA := by
    rw [hfirst.fieldA, decodeA_field_operandA hwf hna]
  unfold fetchInstr
  simp only [hread, hoperandA]
  refine Prod.ext (hfirst.decode na _ hwf hna fun x hx => ?_) rfl
  rw [hfirst.hasNextB, List.isEmpty_eq_false_iff.mpr (List.ne_nil_of_mem hx)]
  exact hnextB x hx

theorem isFirstWord_of_head? {i : Instr} {w : Word} (h : (encode i).head? = some w) : IsFirstWord w i := by
  obtain ⟨w', hencode, hfirst⟩ := encode_eq_cons i
  rw [hencode] at h
  exact Option.some.inj h ▸ hfirst

/-! ### Code in plain RAM -/

/-- The word at a distance from PC, as RAM holds it. -/
def codeWord (s : State) (k : Nat) : Word := s.mem.readWord (s.pc + BitVec.ofNat 16 k).toNat

theorem plainRam_congr {s t : State} (hcfg : t.cfg = s.cfg) (hbase : t.mpuBase = s.mpuBase)
    (hlimit : t.mpuLimit = s.mpuLimit) (hctrl : t.mpuCtrl = s.mpuCtrl) {addr : Word} {k : Access}
    (h : plainRam addr k s) : plainRam addr k t :=
  ⟨hcfg ▸ h.1, (mpuViolation_congr hbase hlimit hctrl addr k).trans h.2⟩

theorem memRead_code {s : State} {k : Nat} (h : plainRam (s.pc + BitVec.ofNat 16 k) .read s) :
    memRead (s.pc + BitVec.ofNat 16 k) s = (codeWord s k, s) := memRead_plain h

/-- The reads of plain code before the meaning begins leave no trace. -/
theorem lastRead_plain {s : State} (a : OpA) (hfirst : plainRam (s.pc + BitVec.ofNat 16 0) .read s)
    (hnext : a.next ≠ [] → plainRam (s.pc + BitVec.ofNat 16 1) .read s) :
    lastRead a s = (codeWord s a.next.length, s) := by
  have hread : memRead s.pc s = (codeWord s 0, s) := by simpa using memRead_code hfirst
  unfold lastRead
  split
  next hnil => rw [hread, hnil, List.length_nil]
  next hne =>
    have hlen : a.next.length = 1 :=
      Nat.le_antisymm a.next_length_le (List.length_pos_iff.mpr hne)
    rw [hread, hlen]
    exact memRead_code (hnext hne)

/-- Evaluating `a` leaves the code as it is: `b`'s next word, behind `a`'s, reads as before. -/
theorem memRead_afterA {s : State} (a : OpA)
    (h : plainRam (s.pc + BitVec.ofNat 16 (1 + a.next.length)) .read s) :
    (memRead (readA a (s.setPc (s.pc + 1#16))).2.pc (readA a (s.setPc (s.pc + 1#16))).2).1 =
      codeWord s (1 + a.next.length) := by
  have henv := readA_envStep a (s.setPc (s.pc + 1#16))
  generalize (readA a (s.setPc (s.pc + 1#16))).2 = v at henv
  have hpc : v.pc = s.pc + BitVec.ofNat 16 (1 + a.next.length) := by
    rw [henv.pc, BitVec.ofNat_add, ← BitVec.add_assoc]
    rfl
  have hmem : v.mem = s.mem := henv.mem
  rw [hpc, memRead_plain (plainRam_congr henv.cfg henv.mpuBase henv.mpuLimit henv.mpuCtrl h), hmem, codeWord]

/-- A list that counts up from a first word through two lists of at most one word each. -/
theorem eq_of_cons_append_eq_map {x : Word} {la lb : List Word} {f : Nat → Word} {n : Nat}
    (h : x :: (la ++ lb) = (List.range n).map f) (ha : la.length ≤ 1) (hb : lb.length ≤ 1) :
    n = 1 + la.length + lb.length ∧ x = f 0 ∧ (∀ y ∈ la, y = f la.length) ∧ ∀ y ∈ lb, y = f (1 + la.length) := by
  have hn := congrArg List.length h
  simp only [List.length_cons, List.length_append, List.length_map, List.length_range] at hn
  subst hn
  match la, lb, ha, hb with
  | [], [], _, _ => simpa [List.range_succ] using h
  | [y], [], _, _ => simpa [List.range_succ] using h
  | [], [z], _, _ => simpa [List.range_succ] using h
  | [y], [z], _, _ => simpa [List.range_succ] using h

/-- In plain RAM the fetch yields what the decoder reads from the words at PC. -/
theorem fetchInstr_plain {s : State} {i : Instr} {n : Nat}
    (hplain : ∀ k, k < n → plainRam (s.pc + BitVec.ofNat 16 k) .read s)
    (hdecode : decode ((List.range n).map (codeWord s)) = .ok (i, [])) :
    fetchInstr s = (i, s.setPc (s.pc + 1#16)) := by
  obtain ⟨hwf, hwords⟩ := encodeInvertsDecode _ i [] hdecode
  obtain ⟨w, hencode, hfirst⟩ := encode_eq_cons i
  rw [List.append_nil, hencode] at hwords
  obtain ⟨rfl, rfl, hnextA, hnextB⟩ :=
    eq_of_cons_append_eq_map hwords i.operandA.next_length_le (nextB_length_le i)
  have hplain0 := hplain 0 (by omega)
  have hread : memRead s.pc s = (codeWord s 0, s) := by simpa using memRead_code hplain0
  have hlast : lastRead i.operandA s = (codeWord s i.operandA.next.length, s) :=
    lastRead_plain i.operandA hplain0 fun hne => hplain 1 (by have := List.length_pos_iff.mpr hne; omega)
  have hstart : meaningStart i.operandA s = s.setPc (s.pc + 1#16) := by rw [meaningStart, hlast]
  rw [← hstart]
  refine fetchInstr_eq hwf (by rw [hread]; exact hfirst) (by rw [hlast]; exact hnextA) fun x hx => ?_
  have hlen := List.length_pos_of_mem hx
  rw [hstart, memRead_afterA i.operandA (hplain _ (by omega))]
  exact hnextB x hx

/-! ### The step -/

theorem step_of_fetchInstr {s u : State} {i : Instr} (hrun : s.hostStop = .running) (hhalted : s.halted = false)
    (h : fetchInstr s = (i, u)) : step s = finishStep (exec i u) := by
  rw [step_running hrun hhalted, h]

/-- Settles O5: a running CPU's step is the fetched instruction and its end, and the fetch yields the instruction the
statement speaks of, in plain RAM (`fetchInstr_plain`) and wherever its words stand (`fetchInstr_eq`). -/
theorem stepRunsDecoded : Obligations.StepRunsDecoded := by
  refine ⟨fun s w i hrun hhalted hplain _ hdecode => ?_, fun s i hrun hhalted hwf => ?_⟩
  · exact step_of_fetchInstr hrun hhalted (fetchInstr_plain hplain hdecode)
  · intro w na u v hhead hnextA hnextB
    exact step_of_fetchInstr hrun hhalted (fetchInstr_eq hwf (isFirstWord_of_head? hhead) hnextA hnextB)

end Sys2Proof.Proofs.StepDecoded
end

-- Destinations and the undefined operand uses (30_encoding.md R89, R93).
section
namespace Sys2Proof.Proofs.Destinations

open Sys2Proof Sys2Proof.Machine Sys2Proof.Proofs.MemoryAccess

/-! ### What a write to a location leaves (R89) -/

/-- FL keeps the low four bits of what is written and reads as zero above them (10_state.md R18, R19). -/
theorem toWord_ofWord (v : Word) : (Flags.ofWord v).toWord = v &&& 0x000F#16 := by
  apply BitVec.eq_of_getLsbD_eq
  intro i hi
  simp only [Flags.ofWord, Flags.toWord, BitVec.getLsbD_append, BitVec.getLsbD_ofBool, BitVec.getLsbD_and]
  interval_cases i <;> simp

theorem toNat_toWord_ofWord (v : Word) : (Flags.ofWord v).toWord.toNat = v.toNat % 16 := by
  rw [toWord_ofWord, BitVec.toNat_and]
  exact Nat.and_two_pow_sub_one_eq_mod v.toNat 4

theorem regsKept_setReg (s : State) (r : Reg) (v : Word) : RegsKept [r] s (s.setReg r v) := fun q hq =>
  State.reg_setReg_ne s (by simpa using hq) v

/-- A word of plain RAM reads as what a store has just put there (20_memory.md R70). -/
theorem memRead_memWrite_same {addr : Word} {s : State} (hwrite : plainRam addr .write s)
    (hread : plainRam addr .read s) (v : Word) : (memRead addr (memWrite addr v s)).1 = v := by
  obtain ⟨hsame, -, -⟩ := storeIsReadBack s addr addr v hwrite hread
  rwa [if_pos rfl] at hsame

/-- Settles O31: a location that is a register is one field of the state, one in memory is the write access, which
plain RAM gives back (`memRead_memWrite_same`). -/
theorem destinationHoldsResult : Obligations.DestinationHoldsResult := by
  intro s v
  refine ⟨fun r => ⟨rfl, State.reg_setReg_same s r v, regsKept_setReg s r v, rfl⟩, rfl, rfl, rfl, rfl,
    toNat_toWord_ofWord v, fun _ => rfl, fun _ => ⟨rfl, rfl⟩, fun addr hwrite hread => ?_⟩
  have hback := memRead_memWrite_same hwrite hread v
  exact ⟨hback, hback⟩

/-! ### Undefined operand uses (R89, decision D25) -/

section Undefined
variable (base : Nat) (a : OpA) (s : State)

theorem readModifyWrite_push (f : Flags → Word → Word → AluOut) :
    readModifyWrite base f .push a s = .fault .readOfPush := rfl

theorem compareOnly_push (f : Flags → Word → Word → AluOut) : compareOnly base f .push a s = .fault .readOfPush := rfl

theorem skipUnless_push (cond : Word → Word → Bool) : skipUnless cond .push a s = .fault .readOfPush := rfl

theorem unaryOp_pop (f : Flags → Word → AluOut) : unaryOp base f .pop s = .fault .writeToPop := rfl

theorem execIag_pop : execIag .pop s = .fault .writeToPop := rfl

end Undefined

/-- Settles O32: each shape that reads `b` faults on PUSH, and each that writes `a` on POP. -/
theorem undefinedOperandUsesFault : Obligations.UndefinedOperandUsesFault := by
  intro a s
  simp only [List.forall_mem_cons, List.not_mem_nil, false_imp_iff, implies_true, and_true, exec, execAdd, execSub,
    execMul, execMli, execDiv, execDvi, execMod, execMdi, execAnd, execBor, execXor, execShr, execAsr, execShl, execAdc,
    execSbb, execFxmul, execFxdiv, readModifyWrite_push, execCmp, execTst, compareOnly_push, execIfb, execIfc, execIfe,
    execIfn, execIfg, execIfa, execIfl, execIfu, skipUnless_push, execNeg, execNot, execSxb, execSwp, unaryOp_pop,
    execIag_pop]

end Sys2Proof.Proofs.Destinations
end

-- Where each instruction stores (30_encoding.md R89, R93).
section
namespace Sys2Proof.Proofs.StoreFrame

open Sys2Proof Sys2Proof.Machine

/-! ### What a store can reach -/

/-- The part of the state a store can change: RAM and the writable registers of the System Control Block (20_memory.md
R47, 60_exceptions.md R333). -/
def storage (s : State) : Memory × Word × Word × Word × Word :=
  (s.mem, s.sysIqm, s.mpuBase, s.mpuLimit, s.mpuCtrl)

/-- From `s` to `t` nothing is stored but to the listed words. -/
structure StoresWithin (ws : List Word) (s t : State) : Prop where
  memory : MemoryKept ws s t
  control : ControlKept ws s t

section Relation
variable {ws vs : List Word} {s t u : State}

theorem StoresWithin.of_storage_eq (h : storage t = storage s) : StoresWithin ws s t := by
  simp only [storage, Prod.mk.injEq] at h
  obtain ⟨hmem, hiqm, hbase, hlimit, hctrl⟩ := h
  exact ⟨.of_eq hmem, fun _ => hiqm, fun _ => hbase, fun _ => hlimit, fun _ => hctrl⟩

theorem StoresWithin.trans (h : StoresWithin ws s t) (g : StoresWithin ws t u) : StoresWithin ws s u :=
  ⟨h.memory.trans g.memory, h.control.trans g.control⟩

theorem StoresWithin.mono (h : StoresWithin ws s t) (hsub : ∀ w ∈ ws, w ∈ vs) : StoresWithin vs s t :=
  ⟨h.memory.mono hsub, h.control.mono hsub⟩

theorem StoresWithin.after (g : StoresWithin ws t u) (h : storage t = storage s) : StoresWithin ws s u :=
  (StoresWithin.of_storage_eq h).trans g

theorem StoresWithin.andThen (g : StoresWithin ws s t) (h : storage u = storage t) : StoresWithin ws s u :=
  g.trans (.of_storage_eq h)

end Relation

/-! ### What stores nothing

The simp set pushes `storage` through field updates, and through reads, which do only what a read may. -/

section Updates
variable (s : State)

@[simp] theorem storage_setReg (r : Reg) (v : Word) : storage (s.setReg r v) = storage s := rfl
@[simp] theorem storage_setPc (v : Word) : storage (s.setPc v) = storage s := rfl
@[simp] theorem storage_setSp (v : Word) : storage (s.setSp v) = storage s := rfl
@[simp] theorem storage_setEx (v : Word) : storage (s.setEx v) = storage s := rfl
@[simp] theorem storage_setFl (f : Flags) : storage (s.setFl f) = storage s := rfl
@[simp] theorem storage_setIa (v : Word) : storage (s.setIa v) = storage s := rfl
@[simp] theorem storage_setIq (v : Bool) : storage (s.setIq v) = storage s := rfl
@[simp] theorem storage_setQueue (q : List Word) : storage (s.setQueue q) = storage s := rfl
@[simp] theorem storage_setHalted (v : Bool) : storage (s.setHalted v) = storage s := rfl
@[simp] theorem storage_setMpuf (v : Bool) : storage (s.setMpuf v) = storage s := rfl
@[simp] theorem storage_setHostStop (v : HostStop) : storage (s.setHostStop v) = storage s := rfl
@[simp] theorem storage_emit (e : BusEvent) : storage (s.emit e) = storage s := rfl
@[simp] theorem storage_charge (n : Nat) : storage (s.charge n) = storage s := rfl

@[simp] theorem storage_putEx (e : Option Word) : storage (putEx e s) = storage s := by
  cases e <;> rfl

@[simp] theorem storage_copyEnd (src dst : Word) (n : Nat) (backward : Bool) (stop : Option Nat) :
    storage (copyEnd src dst n backward stop s) = storage s := by
  cases stop <;> rfl

end Updates

theorem storage_of_envStep {s t : State} (h : EnvStep s t) : storage t = storage s := by
  simp only [storage, h.mem, h.sysIqm, h.mpuBase, h.mpuLimit, h.mpuCtrl]

section Reads
variable (s : State)

@[simp] theorem storage_memRead (addr : Word) : storage (memRead addr s).2 = storage s :=
  storage_of_envStep (memRead_envStep addr s)

@[simp] theorem storage_loadLoc (l : Loc) : storage (loadLoc l s).2 = storage s :=
  storage_of_envStep (loadLoc_envStep l s)

@[simp] theorem storage_locA (a : OpA) : storage (locA a s).2 = storage s := by
  simp [locA_state]

@[simp] theorem storage_passA (a : OpA) : storage (passA a s) = storage s := by
  simp [passA_eq, passed]

@[simp] theorem storage_readA (a : OpA) : storage (readA a s).2 = storage s := by
  simp [storage_of_envStep (readA_envStep a s)]

@[simp] theorem storage_locB (b : OpB) : storage (locB b s).2 = storage s := by
  simp [storage_of_envStep (locB_envStep b s)]

@[simp] theorem storage_skipFrom (n : Nat) : storage (skipFrom n s).2 = storage s := by
  obtain ⟨v, h⟩ := skipFrom_envStep n s
  simp [storage_of_envStep h]

@[simp] theorem storage_pop : storage (pop s).2 = storage s := by
  simp [pop_eq]

@[simp] theorem storage_returnFromInterrupt : storage (returnFromInterrupt s) = storage s := by
  simp [returnFromInterrupt]

theorem storage_readLoc {l : Loc} {s : State} {v : Word × State} (h : readLoc l s = .ok v) :
    storage v.2 = storage s := by
  have hload : loadLoc l s = v := by
    cases l with
    | memPush addr => cases h
    | _ => exact Except.ok.inj h
  simp [← hload]

end Reads

/-! ### What stores -/

section Writes
variable (s : State)

theorem memWrite_storesWithin (addr v : Word) : StoresWithin [addr] s (memWrite addr v s) :=
  ⟨(memWrite_storeStep addr v s).memory, (memWrite_storeStep addr v s).control⟩

theorem storeLoc_storesWithin (l : Loc) (v : Word) : StoresWithin l.target s (storeLoc l v s) :=
  ⟨(storeLoc_putStep l v s).memory, (storeLoc_putStep l v s).control⟩

theorem writeLoc_storesWithin {l : Loc} {v : Word} {s t : State} (h : writeLoc l v s = .ok t) :
    StoresWithin l.target s t := by
  have hstore : storeLoc l v s = t := by
    cases l with
    | memPop addr => cases h
    | _ => exact Except.ok.inj h
  exact hstore ▸ storeLoc_storesWithin s l v

theorem push_storesWithin (v : Word) : StoresWithin [s.sp - 1#16] s (push v s) :=
  (memWrite_storesWithin (s.setSp (s.sp - 1#16)) (s.sp - 1#16) v).after (by simp)

/-- The words of an interrupt's frame (60_exceptions.md R308). -/
def frameWords (s : State) : List Word := [s.sp - 1#16, s.sp - 2#16]

theorem enterHandler_storesWithin (m : Word) : StoresWithin (frameWords s) s (enterHandler m s) :=
  ⟨enterHandler_memoryKept m s, enterHandler_controlKept m s⟩

theorem dispatch_storesWithin (m : Word) : StoresWithin (frameWords s) s (dispatch m s) := by
  have henter : StoresWithin (frameWords s) s (enterHandler m (s.setIq true)) :=
    (enterHandler_storesWithin (s.setIq true) m).after (by simp)
  unfold dispatch
  simp only
  repeat' split
  all_goals exact henter.andThen (by simp)

theorem enqueueMsg_storesWithin (m : Word) : StoresWithin (frameWords s) s (enqueueMsg m s) := by
  unfold enqueueMsg
  split
  · exact .of_storage_eq (by simp)
  · split
    · exact .of_storage_eq (by simp)
    · split
      · exact (enterHandler_storesWithin s 0xFFFF#16).andThen (by simp [overflowFault])
      · exact .of_storage_eq (by simp)

theorem enqueue_storesWithin (m : Word) : StoresWithin (frameWords s) s (enqueue m s) := by
  unfold enqueue
  simp only
  split
  · exact (enqueueMsg_storesWithin s m).andThen (by simp)
  · exact enqueueMsg_storesWithin s m

/-- An arriving message stores at most its frame, whether it is dispatched or overflows the queue. -/
theorem arrive_storesWithin (m : Word) : StoresWithin (frameWords s) s (arrive m s) := by
  unfold arrive
  split
  · exact .of_storage_eq (by simp)
  · split
    · exact enqueue_storesWithin s m
    · exact dispatch_storesWithin s m

theorem copyWord_storesWithin (src dst : Word) (i : Nat) :
    StoresWithin [dst + BitVec.ofNat 16 i] s (copyWord src dst i s).2 := by
  unfold copyWord
  simp only
  split
  · exact .of_storage_eq (by simp)
  · exact (memWrite_storesWithin _ _ _).after (by simp)

/-- A copy stores to the words of the listed indices, whether or not a violation cuts it short. -/
theorem copyWords_storesWithin (src dst : Word) (is : List Nat) :
    StoresWithin (is.map fun k => dst + BitVec.ofNat 16 k) s (copyWords src dst is s).2 := by
  induction is generalizing s with
  | nil => exact .of_storage_eq rfl
  | cons i is ih =>
    have hword : StoresWithin ((i :: is).map fun k => dst + BitVec.ofNat 16 k) s (copyWord src dst i s).2 :=
      (copyWord_storesWithin s src dst i).mono (by simp)
    simp only [copyWords]
    split
    · exact hword
    · exact hword.trans ((ih _).mono fun w hw => List.mem_cons_of_mem _ hw)

/-- From either end a block copy stores to the same words. -/
theorem copyBlock_storesWithin (src dst : Word) (n : Nat) (backward : Bool) :
    StoresWithin ((List.range n).map fun k => dst + BitVec.ofNat 16 k) s
      (copyWords src dst (if backward then (List.range n).reverse else List.range n) s).2 := by
  cases backward with
  | false => exact copyWords_storesWithin s src dst _
  | true => exact (copyWords_storesWithin s src dst _).mono (by simp)

end Writes

/-! ### Outcomes -/

/-- If there is a next state, nothing but the listed words is stored to. -/
def EndsStoringWithin (ws : List Word) (s : State) (o : Host.Outcome State Fault Refusal) : Prop :=
  ∀ t, o = .next t → StoresWithin ws s t

section Outcomes
variable {ws : List Word} {s t : State} {o : Host.Outcome State Fault Refusal}

theorem EndsStoringWithin.next (h : StoresWithin ws s t) : EndsStoringWithin ws s (.next t) := by
  rintro _ ⟨⟩
  exact h

theorem EndsStoringWithin.fault (f : Fault) : EndsStoringWithin ws s (.fault f) := by
  rintro _ ⟨⟩

theorem EndsStoringWithin.after (g : EndsStoringWithin ws t o) (h : storage t = storage s) :
    EndsStoringWithin ws s o := fun u hu => (g u hu).after h

theorem putOut_storesWithin (l : Loc) (r : AluOut) (s : State) : EndsStoringWithin l.target s (putOut l r s) := by
  unfold putOut
  split
  next h => exact .next ((writeLoc_storesWithin h).after (by simp))
  next => exact .fault _

end Outcomes

/-! ### Shapes of instruction (30_encoding.md R93) -/

section Destination
variable (b : OpB) (a : OpA) (s : State)

theorem execSet_storesWithin : EndsStoringWithin (locB b (readA a s).2).1.target s (execSet b a s) := by
  unfold execSet
  simp only
  split
  next h => exact .next ((writeLoc_storesWithin h).after (by simp))
  next => exact .fault _

theorem readModifyWrite_storesWithin (base : Nat) (f : Flags → Word → Word → AluOut) :
    EndsStoringWithin (locB b (readA a s).2).1.target s (readModifyWrite base f b a s) := by
  unfold readModifyWrite
  simp only
  split
  next => exact .fault _
  next v h => exact (putOut_storesWithin _ _ _).after (by simp [storage_readLoc h])

theorem execLdb_storesWithin : EndsStoringWithin (locB b (readA a s).2).1.target s (execLdb b a s) :=
  (putOut_storesWithin _ _ _).after (by simp)

theorem execIag_storesWithin : EndsStoringWithin (locA a s).1.target s (execIag a s) := by
  unfold execIag
  simp only
  split
  next h => exact .next ((writeLoc_storesWithin h).after (by simp))
  next => exact .fault _

theorem unaryOp_storesWithin (base : Nat) (f : Flags → Word → AluOut) :
    EndsStoringWithin (locA a s).1.target s (unaryOp base f a s) := by
  unfold unaryOp
  simp only
  split
  next => exact .fault _
  next v h => exact (putOut_storesWithin _ _ _).after (by simp [storage_readLoc h])

end Destination

section NoDestination
variable {ws : List Word} (b : OpB) (a : OpA) (s : State)

theorem compareOnly_storesWithin (base : Nat) (f : Flags → Word → Word → AluOut) :
    EndsStoringWithin ws s (compareOnly base f b a s) := by
  unfold compareOnly
  simp only
  split
  next => exact .fault _
  next v h => exact .next (.of_storage_eq (by simp [storage_readLoc h]))

theorem skipUnless_storesWithin (cond : Word → Word → Bool) : EndsStoringWithin ws s (skipUnless cond b a s) := by
  unfold skipUnless
  simp only
  split
  next => exact .fault _
  next v h =>
    split
    all_goals exact .next (.of_storage_eq (by simp [storage_readLoc h]))

theorem execReserved1F_storesWithin : EndsStoringWithin ws s (execReserved1F b a s) :=
  .next (.of_storage_eq (by simp))

theorem jumpIf_storesWithin (cond : Flags → Bool) : EndsStoringWithin ws s (jumpIf cond a s) := by
  unfold jumpIf
  split
  all_goals exact .next (.of_storage_eq (by simp))

theorem doNothing_storesWithin (cost : Nat) : EndsStoringWithin ws s (doNothing cost a s) :=
  .next (.of_storage_eq (by simp))

theorem execNop_storesWithin : EndsStoringWithin ws s (execNop a s) := .next (.of_storage_eq (by simp))

theorem execIas_storesWithin : EndsStoringWithin ws s (execIas a s) := .next (.of_storage_eq (by simp))

theorem execIaq_storesWithin : EndsStoringWithin ws s (execIaq a s) := .next (.of_storage_eq (by simp))

theorem execRfi_storesWithin : EndsStoringWithin ws s (execRfi a s) :=
  .next (.of_storage_eq (by simp))

theorem execHlt_storesWithin : EndsStoringWithin ws s (execHlt a s) := .next (.of_storage_eq (by simp))

theorem execBrk_storesWithin : EndsStoringWithin ws s (execBrk a s) := by
  unfold execBrk
  simp only
  split
  all_goals exact .next (.of_storage_eq (by simp))

end NoDestination

/-! ### Instructions that store by themselves -/

section Implicit
variable (a : OpA) (s : State)

/-- JSR and BSR store the return address and differ in PC alone. -/
theorem call_storesWithin (target : Word) :
    EndsStoringWithin [(readA a s).2.sp - 1#16] s
      (.next (((push (readA a s).2.pc (readA a s).2).setPc target).charge (3 + costA a))) := by
  have hpush := push_storesWithin (readA a s).2 (readA a s).2.pc
  exact .next ((hpush.after (by simp)).andThen (by simp))

theorem execInt_storesWithin : EndsStoringWithin (frameWords (readA a s).2) s (execInt a s) := by
  have harrive := arrive_storesWithin (readA a s).2 (readA a s).1
  exact .next ((harrive.after (by simp)).andThen (by simp))

theorem execStb_storesWithin : EndsStoringWithin [wordOfByte (readA a s).1] s (execStb a s) := by
  have hstore := memWrite_storesWithin (memRead (wordOfByte (readA a s).1) (readA a s).2).2 (wordOfByte (readA a s).1)
  exact .next (((hstore _).after (by simp)).andThen (storage_charge _ _))

/-- BCOPY stores to its destination range: passing `a` over leaves A, B and C. -/
theorem execBcopy_storesWithin : EndsStoringWithin (storesTo (.bcopy a) s) s (execBcopy a s) := by
  unfold execBcopy
  simp only [passA_eq, passed, State.setPc_reg]
  have hcopy := copyBlock_storesWithin (s.setPc (s.pc + BitVec.ofNat 16 a.next.length)) (s.reg .A) (s.reg .B)
    (s.reg .C).toNat (decide ((s.reg .A).toNat < (s.reg .B).toNat))
  exact .next ((hcopy.after (by simp)).andThen (by simp))

end Implicit

/-- The store frame of all 63 instructions: each by the lemma of its shape, which names the words by the meaning's own
address expressions. -/
theorem exec_storesWithin (i : Instr) (s : State) : EndsStoringWithin (storesTo i s) s (exec i s) := by
  cases i with
  | set b a => exact execSet_storesWithin b a s
  | add b a | sub b a | mul b a | mli b a | div b a | dvi b a | mod b a | mdi b a | and b a | bor b a | xor b a
  | shr b a | asr b a | shl b a | adc b a | sbb b a | fxmul b a | fxdiv b a =>
    exact readModifyWrite_storesWithin b a s _ _
  | cmp b a | tst b a => exact compareOnly_storesWithin b a s _ _
  | ifb b a | ifc b a | ife b a | ifn b a | ifg b a | ifa b a | ifl b a | ifu b a =>
    exact skipUnless_storesWithin b a s _
  | ldb b a => exact execLdb_storesWithin b a s
  | reserved1F b a => exact execReserved1F_storesWithin b a s
  | nop a => exact execNop_storesWithin a s
  | jsr a | bsr a => exact call_storesWithin a s _
  | jz a | jnz a | jc a | jnc a | js a | jns a | jo a | ja a | jbe a | jge a | jl a | jg a | jle a =>
    exact jumpIf_storesWithin a s _
  | int a => exact execInt_storesWithin a s
  | iag a => exact execIag_storesWithin a s
  | ias a => exact execIas_storesWithin a s
  | rfi a => exact execRfi_storesWithin a s
  | iaq a => exact execIaq_storesWithin a s
  | reserved15 a | reserved16 a | reserved17 a => exact doNothing_storesWithin a s _
  | neg a | not a | sxb a | swp a => exact unaryOp_storesWithin a s _ _
  | bcopy a => exact execBcopy_storesWithin a s
  | brk a => exact execBrk_storesWithin a s
  | hlt a => exact execHlt_storesWithin a s
  | stb a => exact execStb_storesWithin a s

/-- Settles O26: the memory and the control registers of the store frame (`exec_storesWithin`). -/
theorem storesOnlyWhereNamed : Obligations.StoresOnlyWhereNamed := fun i s t h =>
  have hframe := exec_storesWithin i s t h
  ⟨hframe.memory, hframe.control⟩

end Sys2Proof.Proofs.StoreFrame
end

-- SET and the integer arithmetic group (40_arithmetic.md).
section
namespace Sys2Proof.Proofs.Arithmetic

open Sys2Proof Sys2Proof.Machine

/-! ### From a computation to what the instruction writes (30_encoding.md R93) -/

/-- An instruction of the read, compute and write shape writes whatever its computation is known to give. -/
theorem writes_of_readModifyWrite {i : Instr} {base : Nat} {f : Flags → Word → Word → AluOut} {b : OpB} {a : OpA}
    {s : State} {o : AluOut} (hexec : exec i s = readModifyWrite base f b a s) (hb : b ≠ .push)
    (hout : f s.fl (evaluate b a s).vb (evaluate b a s).va = o) : Writes i b a base o.ex o.fl o.r s := by
  rw [Writes, hexec, readModifyWrite_eq base f hb, hout]

/-! ### SET -/

/-- Settles O33: operand `b` never resolves to POP (`locB_ne_memPop`), the one location that cannot be written. -/
theorem setStoresSource : Obligations.SetStoresSource := by
  intro b a s
  have hwrite := writeLoc_of_ne (readA a s).1 ((locB b (readA a s).2).2.charge (1 + costA a + costB b))
    (locB_ne_memPop b (readA a s).2)
  change execSet b a s = _
  simp only [execSet, hwrite]

/-! ### ADD and SUB -/

section Computations
variable (f : Flags) (vb va : Word)

theorem addOut_eq :
    addOut f vb va =
      ⟨BitVec.ofNat 16 (vb.toNat + va.toNat), some (if 65535 < vb.toNat + va.toNat then 0x0001#16 else 0x0000#16),
       flagsFor (BitVec.ofNat 16 (vb.toNat + va.toNat)) (65535 < vb.toNat + va.toNat)
         (vb.toInt + va.toInt < -32768 ∨ 32767 < vb.toInt + va.toInt)⟩ := by
  simpa [addOut] using addWith_eq false vb va

/-- `subWith_eq` adds 2^17 to keep the difference and a borrow natural; without a borrow 2^16 is enough. -/
theorem ofNat_sub_borrow :
    BitVec.ofNat 16 (vb.toNat + 131072 - va.toNat) = BitVec.ofNat 16 (vb.toNat + 65536 - va.toNat) := by
  have hva := va.isLt
  apply BitVec.eq_of_toNat_eq
  simp only [BitVec.toNat_ofNat]
  omega

theorem subOut_eq :
    subOut f vb va =
      ⟨BitVec.ofNat 16 (vb.toNat + 65536 - va.toNat), some (if vb.toNat < va.toNat then 0xFFFF#16 else 0x0000#16),
       flagsFor (BitVec.ofNat 16 (vb.toNat + 65536 - va.toNat)) (vb.toNat < va.toNat)
         (vb.toInt - va.toInt < -32768 ∨ 32767 < vb.toInt - va.toInt)⟩ := by
  simpa [subOut, ofNat_sub_borrow] using subWith_eq false vb va

/-! ### MUL and MLI: a product cut in two words -/

theorem toNat_high_low {p : Nat} (h : p < 65536 * 65536) :
    (BitVec.ofNat 16 (p >>> 16)).toNat * 65536 + (BitVec.ofNat 16 p).toNat = p := by
  simp only [BitVec.toNat_ofNat, Nat.shiftRight_eq_div_pow]
  omega

/-- As `toNat_high_low`, with a signed high word: the shift rounds down, so the low word counts up from it. -/
theorem toInt_high_low {p : Int} (hlo : -2147483648 ≤ p) (hhi : p < 2147483648) :
    (w16 (p >>> (16 : Nat))).toInt * 65536 + ((w16 p).toNat : Int) = p := by
  have hshift : p >>> (16 : Nat) = p / 65536 := Int.shiftRight_eq_div_pow p 16
  have hhigh : (w16 (p / 65536)).toInt = p / 65536 := toInt_ofInt_of (by omega) (by omega)
  have hlow : (w16 p).toNat = (p % 65536).toNat := BitVec.toNat_ofInt p
  rw [hshift, hhigh, hlow]
  omega

theorem natAbs_toInt_le (v : Word) : v.toInt.natAbs ≤ 32768 := by
  have := toInt_cases v
  have := v.isLt
  omega

theorem natAbs_toInt_mul_le : (vb.toInt * va.toInt).natAbs ≤ 32768 * 32768 := by
  rw [Int.natAbs_mul]
  exact Nat.mul_le_mul (natAbs_toInt_le vb) (natAbs_toInt_le va)

theorem mulOut_product :
    ∃ r e : Word, e.toNat * 65536 + r.toNat = vb.toNat * va.toNat ∧
      mulOut f vb va = ⟨r, some e, flagsFor r (e.toNat ≠ 0) False⟩ := by
  have hbound : vb.toNat * va.toNat < 65536 * 65536 := Nat.mul_lt_mul'' vb.isLt va.isLt
  refine ⟨_, _, toNat_high_low hbound, ?_⟩
  rw [mulOut, flagsOf_of _ (ne_zero_iff _) Bool.false_eq_true.to_iff]

theorem mliOut_product :
    ∃ r e : Word, e.toInt * 65536 + (r.toNat : Int) = vb.toInt * va.toInt ∧
      mliOut f vb va = ⟨r, some e, flagsFor r (e.toNat ≠ 0)
        (vb.toInt * va.toInt < -32768 ∨ 32767 < vb.toInt * va.toInt)⟩ := by
  have hbound := natAbs_toInt_mul_le vb va
  refine ⟨_, _, toInt_high_low (by omega) (by omega), ?_⟩
  rw [mliOut, flagsOf_of _ (ne_zero_iff _) (outside16_iff _)]

/-! ### The divide group

For a divisor of zero all four give one result; for another divisor C and O are cleared. -/

/-- What the divide group makes of a zero divisor (40_arithmetic.md R135 to R138). -/
def zeroDivisorOut : AluOut := ⟨0x0000#16, some 0x0000#16, ⟨true, false, false, false⟩⟩

theorem divOut_zero : divOut f vb 0x0000#16 = zeroDivisorOut := rfl
theorem modOut_zero : modOut f vb 0x0000#16 = zeroDivisorOut := rfl
theorem dviOut_zero : dviOut f vb 0x0000#16 = zeroDivisorOut := rfl
theorem mdiOut_zero : mdiOut f vb 0x0000#16 = zeroDivisorOut := rfl

theorem flagsOf_clear (r : Word) : flagsOf r false false = flagsFor r False False :=
  flagsOf_of r Bool.false_eq_true.to_iff Bool.false_eq_true.to_iff

variable {va}

theorem toNat_pos (hva : va ≠ 0x0000#16) : 0 < va.toNat :=
  Nat.pos_of_ne_zero fun h => hva (BitVec.eq_of_toNat_eq h)

theorem toInt_ne_zero (hva : va ≠ 0x0000#16) : va.toInt ≠ 0 := fun h => hva (BitVec.eq_of_toInt_eq h)

/-- The scaled quotient's bits from 16 up are the quotient itself, which therefore fits a word; EX has the others. -/
theorem divOut_quotient (hva : va ≠ 0x0000#16) :
    ∃ q e : Word, q.toNat = vb.toNat / va.toNat ∧ q.toNat * 65536 + e.toNat = vb.toNat * 65536 / va.toNat ∧
      divOut f vb va = ⟨q, some e, flagsFor q False False⟩ := by
  have hq : (BitVec.ofNat 16 (vb.toNat / va.toNat)).toNat = vb.toNat / va.toNat := by
    rw [BitVec.toNat_ofNat]
    exact Nat.mod_eq_of_lt ((Nat.div_le_self _ _).trans_lt vb.isLt)
  have hscaled : vb.toNat * 65536 / va.toNat / 65536 = vb.toNat / va.toNat := by
    rw [Nat.div_div_eq_div_mul, Nat.mul_div_mul_right _ _ (by omega)]
  refine ⟨BitVec.ofNat 16 (vb.toNat / va.toNat), BitVec.ofNat 16 (vb.toNat * 65536 / va.toNat), hq, ?_, ?_⟩
  · rw [hq, BitVec.toNat_ofNat, ← hscaled]
    exact Nat.div_add_mod' _ _
  · simp only [divOut, if_neg hva, flagsOf_clear, Nat.shiftLeft_eq, Nat.reducePow]

theorem modOut_remainder (hva : va ≠ 0x0000#16) :
    ∃ m : Word, m.toNat < va.toNat ∧ (∃ q : Nat, vb.toNat = q * va.toNat + m.toNat) ∧
      modOut f vb va = ⟨m, none, flagsFor m False False⟩ := by
  have hlt : vb.toNat % va.toNat < va.toNat := Nat.mod_lt _ (toNat_pos hva)
  have hm : (BitVec.ofNat 16 (vb.toNat % va.toNat)).toNat = vb.toNat % va.toNat := by
    rw [BitVec.toNat_ofNat]
    exact Nat.mod_eq_of_lt (hlt.trans va.isLt)
  refine ⟨BitVec.ofNat 16 (vb.toNat % va.toNat), hm.trans_lt hlt, ⟨vb.toNat / va.toNat, ?_⟩, ?_⟩
  · rw [hm]
    exact (Nat.div_add_mod' _ _).symm
  · simp only [modOut, if_neg hva, flagsOf_clear]

theorem dviOut_quotient (hva : va ≠ 0x0000#16) :
    dviOut f vb va = ⟨w16 (vb.toInt.tdiv va.toInt), some (w16 ((vb.toInt * 65536).tdiv va.toInt)),
      flagsFor (w16 (vb.toInt.tdiv va.toInt)) False False⟩ := by
  simp only [dviOut, if_neg hva, flagsOf_clear]

theorem mdiOut_remainder (hva : va ≠ 0x0000#16) :
    mdiOut f vb va = ⟨w16 (vb.toInt.tmod va.toInt), none, flagsFor (w16 (vb.toInt.tmod va.toInt)) False False⟩ := by
  simp only [mdiOut, if_neg hva, flagsOf_clear]

/-- A signed remainder is smaller than its divisor, so it fits a word. -/
theorem toInt_w16_of_natAbs_lt {m : Int} (h : m.natAbs < va.toInt.natAbs) : (w16 m).toInt = m := by
  have := natAbs_toInt_le va
  exact toInt_ofInt_of (by omega) (by omega)

end Computations

/-! ### The statements -/

/-- Settles O34: the exact sum and difference of `addOut_eq` and `subOut_eq`. -/
theorem addSubResults : Obligations.AddSubResults := fun _ _ _ hb =>
  ⟨writes_of_readModifyWrite rfl hb (addOut_eq _ _ _), writes_of_readModifyWrite rfl hb (subOut_eq _ _ _)⟩

/-- Settles O37: the two words of the exact product (`mulOut_product`). -/
theorem mulResult : Obligations.MulResult := by
  intro b a s hb
  obtain ⟨r, e, hproduct, hout⟩ := mulOut_product s.fl (evaluate b a s).vb (evaluate b a s).va
  exact ⟨r, e, hproduct, writes_of_readModifyWrite rfl hb hout⟩

/-- Settles O38: the two words of the exact signed product (`mliOut_product`). -/
theorem mliResult : Obligations.MliResult := by
  intro b a s hb
  obtain ⟨r, e, hproduct, hout⟩ := mliOut_product s.fl (evaluate b a s).vb (evaluate b a s).va
  exact ⟨r, e, hproduct, writes_of_readModifyWrite rfl hb hout⟩

/-- Settles O39: the quotient and the remainder of `divOut_quotient` and `modOut_remainder`, and `zeroDivisorOut`. -/
theorem divModResults : Obligations.DivModResults := by
  intro b a s hb vb va
  refine ⟨fun hva => ?_, fun hva => ?_⟩
  · obtain ⟨q, e, hq, hscaled, hdiv⟩ := divOut_quotient s.fl vb hva
    obtain ⟨m, hlt, hsplit, hmod⟩ := modOut_remainder s.fl vb hva
    exact ⟨⟨q, e, hq, hscaled, writes_of_readModifyWrite rfl hb hdiv⟩,
      ⟨m, hlt, hsplit, writes_of_readModifyWrite rfl hb hmod⟩⟩
  · have hdiv : divOut s.fl vb va = zeroDivisorOut := by rw [hva, divOut_zero]
    have hmod : modOut s.fl vb va = zeroDivisorOut := by rw [hva, modOut_zero]
    exact ⟨writes_of_readModifyWrite rfl hb hdiv, writes_of_readModifyWrite rfl hb hmod⟩

/-- Settles O40: `tdiv_spec` characterises both truncated quotients, of `b` and of 65536·`b`, whose signs agree. -/
theorem dviMdiResults : Obligations.DviMdiResults := by
  intro b a s hb vb va
  refine ⟨fun hva => ?_, fun hva => ?_⟩
  · obtain ⟨hsplit, hlt, hpos, hneg⟩ := tdiv_spec vb.toInt va.toInt (toInt_ne_zero hva)
    obtain ⟨hsplit', hlt', hpos', hneg'⟩ := tdiv_spec (vb.toInt * 65536) va.toInt (toInt_ne_zero hva)
    exact ⟨_, _, _, _, w16 (vb.toInt.tmod va.toInt), hsplit, hlt, hpos, hneg, hsplit', hlt',
      fun h => by have := hpos' h; omega, fun h => by have := hneg' h; omega, toInt_w16_of_natAbs_lt hlt,
      writes_of_readModifyWrite rfl hb (dviOut_quotient s.fl vb hva),
      writes_of_readModifyWrite rfl hb (mdiOut_remainder s.fl vb hva)⟩
  · have hdvi : dviOut s.fl vb va = zeroDivisorOut := by rw [hva, dviOut_zero]
    have hmdi : mdiOut s.fl vb va = zeroDivisorOut := by rw [hva, mdiOut_zero]
    exact ⟨writes_of_readModifyWrite rfl hb hdvi, writes_of_readModifyWrite rfl hb hmdi⟩

end Sys2Proof.Proofs.Arithmetic
end

-- The bitwise and shift group (41_bitwise_shift.md).
section
namespace Sys2Proof.Proofs.BitwiseShift

open Sys2Proof Sys2Proof.Machine Sys2Proof.Proofs.Arithmetic

/-! ### AND, BOR and XOR -/

/-- An instruction whose computation is bitwise leaves EX and clears C and O (10_state.md R25). -/
theorem writes_of_bitwiseOut {i : Instr} {f : Flags → Word → Word → AluOut} {b : OpB} {a : OpA} {s : State} {r : Word}
    (hexec : exec i s = readModifyWrite 1 f b a s) (hb : b ≠ .push)
    (hout : f s.fl (evaluate b a s).vb (evaluate b a s).va = bitwiseOut r) :
    Writes i b a 1 none (flagsFor r False False) r s := by
  rw [← flagsOf_clear]
  exact writes_of_readModifyWrite hexec hb hout

/-! ### The bit shifted out (10_state.md R26) -/

section Shifts
variable (f : Flags) (vb va : Word)

theorem getLsbD_iff_div_mod (k : Nat) : vb.getLsbD k = true ↔ vb.toNat / 2 ^ k % 2 = 1 := by
  rw [BitVec.getLsbD, Nat.testBit_eq_decide_div_mod_eq, decide_eq_true_eq]

/-- C after SHR (`k` is `n - 1`) and after SHL (`k` is `16 - n`). -/
theorem shiftCarry_iff (n k : Nat) :
    (decide (1 ≤ n) && decide (n ≤ 15) && vb.getLsbD k) = true ↔
      1 ≤ n ∧ n ≤ 15 ∧ vb.toNat / 2 ^ k % 2 = 1 := by
  simp only [Bool.and_eq_true, decide_eq_true_eq, getLsbD_iff_div_mod, and_assoc]

/-- C after ASR: from 16 on every bit shifted out is a copy of the sign. -/
theorem asrCarry_iff (n : Nat) :
    (if n = 0 then false else if n ≤ 15 then vb.getLsbD (n - 1) else vb.getLsbD 15) = true ↔
      (1 ≤ n ∧ n ≤ 15 ∧ vb.toNat / 2 ^ (n - 1) % 2 = 1) ∨ (16 ≤ n ∧ vb.toInt < 0) := by
  split
  case isTrue hzero => simp [hzero]
  case isFalse hzero =>
    split
    case isTrue hsmall => rw [getLsbD_iff_div_mod]; omega
    case isFalse hlarge => rw [getLsbD_15_int, decide_eq_true_eq]; omega

/-! ### The words of the shifted value -/

/-- EX of both right shifts: the low word of `b·2^16` shifted right. -/
theorem toNat_shiftedOut (n : Nat) :
    (BitVec.ofNat 16 ((vb.toNat <<< 16) >>> n)).toNat = vb.toNat * 65536 / 2 ^ n % 65536 := by
  rw [BitVec.toNat_ofNat, Nat.shiftRight_eq_div_pow, Nat.shiftLeft_eq]

/-- `b` over EX after SHR: the bits from 16 up of `b·2^16` shifted right are `b` shifted right. -/
theorem shrOut_words :
    ∃ r e : Word, r.toNat * 65536 + e.toNat = vb.toNat * 65536 / 2 ^ va.toNat ∧
      shrOut f vb va = ⟨r, some e,
        flagsFor r (1 ≤ va.toNat ∧ va.toNat ≤ 15 ∧ vb.toNat / 2 ^ (va.toNat - 1) % 2 = 1) False⟩ := by
  have hr : (BitVec.ofNat 16 (vb.toNat >>> va.toNat)).toNat = vb.toNat / 2 ^ va.toNat := by
    rw [BitVec.toNat_ofNat, Nat.shiftRight_eq_div_pow]
    exact Nat.mod_eq_of_lt ((Nat.div_le_self _ _).trans_lt vb.isLt)
  have hhigh : vb.toNat * 65536 / 2 ^ va.toNat / 65536 = vb.toNat / 2 ^ va.toNat := by
    rw [Nat.div_div_eq_div_mul, Nat.mul_div_mul_right _ _ (by omega)]
  refine ⟨BitVec.ofNat 16 (vb.toNat >>> va.toNat), BitVec.ofNat 16 ((vb.toNat <<< 16) >>> va.toNat), ?_, ?_⟩
  · rw [hr, toNat_shiftedOut, ← hhigh]
    exact Nat.div_add_mod' _ _
  · rw [shrOut, flagsOf_of _ (shiftCarry_iff vb _ _) Bool.false_eq_true.to_iff]

/-- ASR's result is `BitVec.sshiftRight`, whose signed value is the quotient rounded down. -/
theorem toInt_w16_shiftRight (n : Nat) : (w16 (vb.toInt >>> n)).toInt = vb.toInt / (2 : Int) ^ n := by
  have hshift : (w16 (vb.toInt >>> n)).toInt = vb.toInt >>> n := BitVec.toInt_sshiftRight
  rw [hshift, Int.shiftRight_eq_div_pow, Nat.cast_pow, Nat.cast_ofNat]

/-- `b` and EX after ASR: EX is that of SHR, the sign does not enter it (decision D12). -/
theorem asrOut_words :
    ∃ r e : Word, r.toInt = vb.toInt / (2 : Int) ^ va.toNat ∧ e.toNat = vb.toNat * 65536 / 2 ^ va.toNat % 65536 ∧
      asrOut f vb va = ⟨r, some e,
        flagsFor r ((1 ≤ va.toNat ∧ va.toNat ≤ 15 ∧ vb.toNat / 2 ^ (va.toNat - 1) % 2 = 1) ∨
          (16 ≤ va.toNat ∧ vb.toInt < 0)) False⟩ := by
  refine ⟨_, _, toInt_w16_shiftRight vb va.toNat, toNat_shiftedOut vb va.toNat, ?_⟩
  rw [asrOut, flagsOf_of _ (asrCarry_iff vb _) Bool.false_eq_true.to_iff]

/-- As `toNat_high_low`, for a value of any size: the two words hold its low 32 bits. -/
theorem toNat_high_low_mod (p : Nat) :
    (BitVec.ofNat 16 (p >>> 16)).toNat * 65536 + (BitVec.ofNat 16 p).toNat = p % 4294967296 := by
  simp only [BitVec.toNat_ofNat, Nat.shiftRight_eq_div_pow]
  omega

/-- EX over `b` after SHL: the low 32 bits of `b·2^n`. -/
theorem shlOut_words :
    ∃ r e : Word, e.toNat * 65536 + r.toNat = vb.toNat * 2 ^ va.toNat % 4294967296 ∧
      shlOut f vb va = ⟨r, some e,
        flagsFor r (1 ≤ va.toNat ∧ va.toNat ≤ 15 ∧ vb.toNat / 2 ^ (16 - va.toNat) % 2 = 1) False⟩ := by
  rw [← Nat.shiftLeft_eq]
  refine ⟨_, _, toNat_high_low_mod _, ?_⟩
  rw [shlOut, flagsOf_of _ (shiftCarry_iff vb _ _) Bool.false_eq_true.to_iff]

end Shifts

/-! ### The statements -/

/-- Settles O43: the three words are those of `BitVec`, whose bits are given one by one. -/
theorem bitwiseResults : Obligations.BitwiseResults := by
  intro b a s hb vb va
  exact ⟨⟨vb &&& va, fun _ => BitVec.getLsbD_and, writes_of_bitwiseOut rfl hb rfl⟩,
    ⟨vb ||| va, fun _ => BitVec.getLsbD_or, writes_of_bitwiseOut rfl hb rfl⟩,
    ⟨vb ^^^ va, fun _ => BitVec.getLsbD_xor, writes_of_bitwiseOut rfl hb rfl⟩⟩

/-- Settles O44: the two words of `b·2^16` shifted right (`shrOut_words`). -/
theorem shrResult : Obligations.ShrResult := by
  intro b a s hb
  obtain ⟨r, e, hwords, hout⟩ := shrOut_words s.fl (evaluate b a s).vb (evaluate b a s).va
  exact ⟨r, e, hwords, writes_of_readModifyWrite rfl hb hout⟩

/-- Settles O45: the floored quotient and the word shifted out (`asrOut_words`). -/
theorem asrResult : Obligations.AsrResult := by
  intro b a s hb
  obtain ⟨r, e, hquotient, hlow, hout⟩ := asrOut_words s.fl (evaluate b a s).vb (evaluate b a s).va
  exact ⟨r, e, hquotient, hlow, writes_of_readModifyWrite rfl hb hout⟩

/-- Settles O46: the low 32 bits of `b` shifted left (`shlOut_words`). -/
theorem shlResult : Obligations.ShlResult := by
  intro b a s hb
  obtain ⟨r, e, hwords, hout⟩ := shlOut_words s.fl (evaluate b a s).vb (evaluate b a s).va
  exact ⟨r, e, hwords, writes_of_readModifyWrite rfl hb hout⟩

end Sys2Proof.Proofs.BitwiseShift
end

-- The conditional skips (42_cond_skip.md).
section
namespace Sys2Proof.Proofs.CondSkip

open Sys2Proof Sys2Proof.Machine Sys2Proof.Proofs.MemoryAccess

/-! ### A cost charged earlier or later

No read looks at the cycle count, so an instruction's cost may be charged before it or after it. -/

section Charge
variable (n : Nat) (s : State)

/-- The outcome of a read, with `n` cycles charged. -/
def chargeRead (r : Word × State) : Word × State := (r.1, r.2.charge n)

@[simp] theorem chargeRead_fst (r : Word × State) : (chargeRead n r).1 = r.1 := rfl
@[simp] theorem chargeRead_snd (r : Word × State) : (chargeRead n r).2 = r.2.charge n := rfl

@[simp] theorem charge_charge (m : Nat) : (s.charge m).charge n = s.charge (m + n) := by
  simp only [State.charge, Nat.add_assoc]

theorem draw_charge : draw (s.charge n) = chargeRead n (draw s) := by
  simp only [draw, State.charge_supply]
  cases s.supply with
  | nil => rfl
  | cons v rest => rfl

theorem readTicks_charge : readTicks (s.charge n) = chargeRead n (readTicks s) := by
  simp only [readTicks, draw_charge]
  rfl

theorem scbRead_charge (off : Nat) : scbRead off (s.charge n) = chargeRead n (scbRead off s) := by
  unfold scbRead
  split
  case h_5 => exact readTicks_charge n s -- offset 0x04, SYS_TICKS
  case h_10 => exact draw_charge n s -- offset 0x09, SYS_RNG
  all_goals rfl

theorem deviceRead_charge (d : Device) (off : Nat) :
    deviceRead d off (s.charge n) = chargeRead n (deviceRead d off s) := by
  unfold deviceRead
  split
  case h_4 => exact draw_charge n s
  all_goals rfl

theorem devRead_charge (slot off : Nat) : devRead slot off (s.charge n) = chargeRead n (devRead slot off s) := by
  unfold devRead
  split
  · exact scbRead_charge n s off
  · rw [State.charge_cfg]
    split
    · exact deviceRead_charge n (s.emit _) _ off
    · rfl

theorem physRead_charge (addr : Word) : physRead addr (s.charge n) = chargeRead n (physRead addr s) := by
  unfold physRead
  split
  · exact devRead_charge n s _ _
  · rw [State.charge_cfg]
    split <;> rfl

theorem noteViolation_charge : noteViolation (s.charge n) = (noteViolation s).charge n := by
  rw [noteViolation_eq, noteViolation_eq, apply_ite (State.charge · n)]
  rfl

theorem memRead_charge (addr : Word) : memRead addr (s.charge n) = chargeRead n (memRead addr s) := by
  have hmpu : mpuViolation addr .read (s.charge n) = mpuViolation addr .read s := rfl
  unfold memRead
  rw [hmpu]
  split
  · rw [noteViolation_charge]
    rfl
  · exact physRead_charge n s addr

end Charge

/-! ### One round of the skip (42_cond_skip.md R171) -/

/-- The word is the first word of an IFx. -/
abbrev StartsIfx (w : Word) : Prop := 0x10 ≤ (fieldO w).toNat ∧ (fieldO w).toNat ≤ 0x17

/-- PC past the instruction at PC, of which the first word is read. -/
def pastInstr (s : State) : State :=
  (memRead s.pc s).2.setPc (s.pc + BitVec.ofNat 16 (lengthOf (memRead s.pc s).1))

theorem pastInstr_pc (s : State) : (pastInstr s).pc = s.pc + BitVec.ofNat 16 (lengthOf (memRead s.pc s).1) := rfl

theorem pastInstr_charge (n : Nat) (s : State) : pastInstr (s.charge n) = (pastInstr s).charge n := by
  simp only [pastInstr, State.charge_pc, memRead_charge, chargeRead_fst, chargeRead_snd]
  rfl

/-- A skip of at most `fuel` instructions, charged. -/
def skipCharged (fuel : Nat) (s : State) : State := (skipFrom fuel s).2.charge (skipFrom fuel s).1

theorem afterSkip_eq (s : State) : afterSkip s = skipCharged 0x10000 s := rfl

theorem skipFrom_succ (fuel : Nat) (s : State) :
    skipFrom (fuel + 1) s =
      if StartsIfx (memRead s.pc s).1 then ((skipFrom fuel (pastInstr s)).1 + 1, (skipFrom fuel (pastInstr s)).2)
      else (1, pastInstr s) := by
  rw [skipFrom, (memRead_envStep s.pc s).pc]
  rfl

/-- One round, its cycle charged once it is over. -/
theorem skipCharged_succ_late (fuel : Nat) (s : State) :
    skipCharged (fuel + 1) s =
      if StartsIfx (memRead s.pc s).1 then (skipCharged fuel (pastInstr s)).charge 1 else (pastInstr s).charge 1 := by
  rw [skipCharged, skipFrom_succ]
  split
  · exact (charge_charge _ _ _).symm
  · rfl

theorem skipCharged_charge (n fuel : Nat) (s : State) :
    skipCharged fuel (s.charge n) = (skipCharged fuel s).charge n := by
  induction fuel generalizing s with
  | zero => rfl
  | succ fuel ih =>
    simp only [skipCharged_succ_late, State.charge_pc, memRead_charge, chargeRead_fst, pastInstr_charge, ih]
    split <;> simp only [charge_charge, Nat.add_comm]

/-- One round, its cycle charged before the skip goes on. -/
theorem skipCharged_succ (fuel : Nat) (s : State) :
    skipCharged (fuel + 1) s =
      if StartsIfx (memRead s.pc s).1 then skipCharged fuel ((pastInstr s).charge 1) else (pastInstr s).charge 1 := by
  rw [skipCharged_succ_late, skipCharged_charge]

/-! ### The bound of the skip is never reached

The words 0xE00B to 0xE0FF of slot 0 read 0x0000, which is no IFx (60_exceptions.md R332). They are more than an
instruction is long, so no skip jumps over them, and each IFx skipped brings PC closer to their end. -/

/-- The words from an address up to the last reserved word of slot 0, around the end of the address space. -/
def toReservedEnd (addr : Word) : Nat := (0xE0FF#16 - addr).toNat

theorem memRead_reserved {addr : Word} (hlow : 0xE00B ≤ addr.toNat) (hhigh : addr.toNat ≤ 0xE0FF) (s : State) :
    memRead addr s = (0x0000#16, s) := by
  have hslot : slotOf addr = 0 := by unfold slotOf; omega
  have hoff : 0x0B ≤ offsetOf addr := by unfold offsetOf; omega
  rw [memRead_mmio (by omega), hslot, devRead, if_pos rfl]
  unfold scbRead
  split
  case h_12 => rfl
  all_goals omega

/-- An IFx lies before the reserved words of slot 0. -/
theorem lt_toReservedEnd_of_startsIfx {addr : Word} {s : State} (h : StartsIfx (memRead addr s).1) :
    244 < toReservedEnd addr := by
  by_contra hnear
  obtain ⟨hlow, hhigh⟩ : 0xE00B ≤ addr.toNat ∧ addr.toNat ≤ 0xE0FF := by unfold toReservedEnd at hnear; bv_omega
  rw [memRead_reserved hlow hhigh] at h
  exact absurd h (by decide : ¬StartsIfx 0x0000#16)

/-- Past an IFx, PC is closer to the end of the reserved words. -/
theorem toReservedEnd_pastInstr_lt {s : State} (h : StartsIfx (memRead s.pc s).1) :
    toReservedEnd (pastInstr s).pc < toReservedEnd s.pc := by
  have hfar := lt_toReservedEnd_of_startsIfx h
  have hshort := Laws.EncodedLength.lengthOf_le (memRead s.pc s).1
  have hpos : 1 ≤ lengthOf (memRead s.pc s).1 := by unfold lengthOf; omega
  rw [pastInstr_pc]
  unfold toReservedEnd at *
  bv_omega

/-- A skip with more fuel than words left to the end of the reserved words does not use it up. -/
theorem skipCharged_succ_eq (fuel : Nat) (s : State) (hfuel : toReservedEnd s.pc < fuel) :
    skipCharged (fuel + 1) s = skipCharged fuel s := by
  induction fuel generalizing s with
  | zero => exact absurd hfuel (Nat.not_lt_zero _)
  | succ fuel ih =>
    rw [skipCharged_succ (fuel + 1) s, skipCharged_succ fuel s]
    refine ite_congr rfl (fun hifx => ?_) fun _ => rfl
    have hcloser := toReservedEnd_pastInstr_lt hifx
    exact ih _ (by rw [State.charge_pc]; omega)

/-- Settles O51: one round is `skipCharged_succ`, and after an IFx the round's fuel is not missed
(`skipCharged_succ_eq`): no address has 65,536 words between it and the end of the reserved words. -/
theorem skipPassesChain : Obligations.SkipPassesChain := by
  intro s w t
  rw [afterSkip_eq, skipCharged_succ 0xFFFF]
  refine ite_congr rfl (fun hifx => ?_) fun _ => rfl
  have hcloser := toReservedEnd_pastInstr_lt hifx
  have hwords : toReservedEnd s.pc < 0x10000 := (0xE0FF#16 - s.pc).isLt
  exact (skipCharged_succ_eq 0xFFFF _ (by rw [State.charge_pc]; omega)).symm

/-! ### The conditions (42_cond_skip.md R172 to R179) -/

section Conditions
variable (vb va : Word)

theorem condIfc_iff : condIfc vb va = true ↔ ∀ k, ¬(vb.getLsbD k = true ∧ va.getLsbD k = true) := by
  rw [condIfc, decide_eq_true_eq]
  constructor
  · rintro hzero k ⟨hb, ha⟩
    have hbit : (vb &&& va).getLsbD k = true := by rw [BitVec.getLsbD_and, hb, ha]; rfl
    rw [hzero, BitVec.getLsbD_zero] at hbit
    cases hbit
  · intro hnone
    refine BitVec.eq_of_getLsbD_eq fun k _ => ?_
    rw [BitVec.getLsbD_and, BitVec.getLsbD_zero, ← Bool.not_eq_true, Bool.and_eq_true]
    exact hnone k

/-- IFB's condition is that IFC's fails. -/
theorem condIfb_iff : condIfb vb va = true ↔ ∃ k, vb.getLsbD k = true ∧ va.getLsbD k = true := by
  have hnot : condIfb vb va = !condIfc vb va := decide_not
  rw [hnot, Bool.not_eq_true', ← Bool.not_eq_true, condIfc_iff, not_forall_not]

theorem condIfe_iff : condIfe vb va = true ↔ vb = va := decide_eq_true_iff
theorem condIfn_iff : condIfn vb va = true ↔ vb ≠ va := decide_eq_true_iff
theorem condIfg_iff : condIfg vb va = true ↔ vb.toNat > va.toNat := decide_eq_true_iff
theorem condIfa_iff : condIfa vb va = true ↔ vb.toInt > va.toInt := decide_eq_true_iff
theorem condIfl_iff : condIfl vb va = true ↔ vb.toNat < va.toNat := decide_eq_true_iff
theorem condIfu_iff : condIfu vb va = true ↔ vb.toInt < va.toInt := decide_eq_true_iff

end Conditions

/-- An instruction of the IFx shape continues or skips by whatever its condition is known to say
(42_cond_skip.md R170). -/
theorem skipActs_of_skipUnless {i : Instr} {cond : Word → Word → Bool} {b : OpB} {a : OpA} {s : State} {p : Prop}
    (hexec : exec i s = skipUnless cond b a s) (hb : b ≠ .push)
    (hcond : cond (evaluate b a s).vb (evaluate b a s).va = true ↔ p) :
    SkipActs i p s ((evaluate b a s).after.charge (2 + costA a + costB b)) := by
  rw [SkipActs, hexec, skipUnless_eq cond hb, ← hcond]
  exact ⟨fun h => if_pos h, fun h => if_neg h⟩

/-- Settles O50: the eight have one shape (`skipActs_of_skipUnless`) and differ in the condition. -/
theorem skipConditions : Obligations.SkipConditions := by
  intro b a s hb vb va t
  exact ⟨skipActs_of_skipUnless rfl hb (condIfb_iff vb va), skipActs_of_skipUnless rfl hb (condIfc_iff vb va),
    skipActs_of_skipUnless rfl hb (condIfe_iff vb va), skipActs_of_skipUnless rfl hb (condIfn_iff vb va),
    skipActs_of_skipUnless rfl hb (condIfg_iff vb va), skipActs_of_skipUnless rfl hb (condIfa_iff vb va),
    skipActs_of_skipUnless rfl hb (condIfl_iff vb va), skipActs_of_skipUnless rfl hb (condIfu_iff vb va)⟩

end Sys2Proof.Proofs.CondSkip
end

-- Extended arithmetic and comparison (43_ext_arith_compare.md), and the jumps after a comparison (R194).
section
namespace Sys2Proof.Proofs.ExtArithCompare

open Sys2Proof Sys2Proof.Machine Sys2Proof.Proofs.Arithmetic Sys2Proof.Proofs.Destinations

/-! ### ADC and SBB -/

/-- Settles O35: `addWith_eq` and `subWith_eq` hold for every carry in, and here it is the old C. -/
theorem adcSbbResults : Obligations.AdcSbbResults := by
  intro b a s hb vb va k
  have hadc : adcOut s.fl vb va = _ := addWith_eq s.fl.c vb va
  have hsbb : sbbOut s.fl vb va = _ := subWith_eq s.fl.c vb va
  exact ⟨writes_of_readModifyWrite rfl hb hadc, writes_of_readModifyWrite rfl hb hsbb⟩

/-! ### CMP and TST -/

section Comparison
variable (vb va : Word)

/-- The flags CMP leaves (R192, R22): Z and C compare the operands, S and O are those of the difference. -/
def compareFlags : Flags :=
  ⟨decide (vb = va), decide (vb.toNat < va.toNat), decide (32768 ≤ (vb.toNat + 65536 - va.toNat) % 65536),
    decide (vb.toInt - va.toInt < -32768 ∨ 32767 < vb.toInt - va.toInt)⟩

/-- CMP's Z, which looks at the difference, says whether the operands are equal. -/
theorem difference_eq_zero_iff : (vb.toNat + 65536 - va.toNat) % 65536 = 0 ↔ vb = va := by
  have hvb := vb.isLt
  have hva := va.isLt
  rw [← BitVec.toNat_inj]
  omega

theorem cmpOut_fl (f : Flags) : (cmpOut f vb va).fl = compareFlags vb va := by
  have hsub : (cmpOut f vb va).fl = (subOut f vb va).fl := rfl
  rw [hsub, subOut_eq]
  simp only [flagsFor, compareFlags, BitVec.toNat_ofNat, Nat.reducePow, difference_eq_zero_iff]

theorem andOut_fl (f : Flags) : (andOut f vb va).fl = flagsFor (vb &&& va) False False := flagsOf_clear _

end Comparison

theorem exec_cmp {b : OpB} (hb : b ≠ .push) (a : OpA) (s : State) :
    exec (.cmp b a) s = .next (((evaluate b a s).after.charge (2 + costA a + costB b)).setFl
      (compareFlags (evaluate b a s).vb (evaluate b a s).va)) := by
  have hexec : exec (.cmp b a) s = compareOnly 2 cmpOut b a s := rfl
  rw [hexec, compareOnly_eq 2 cmpOut hb, cmpOut_fl]

theorem exec_tst {b : OpB} (hb : b ≠ .push) (a : OpA) (s : State) :
    exec (.tst b a) s = .next (((evaluate b a s).after.charge (1 + costA a + costB b)).setFl
      (flagsFor ((evaluate b a s).vb &&& (evaluate b a s).va) False False)) := by
  have hexec : exec (.tst b a) s = compareOnly 1 andOut b a s := rfl
  rw [hexec, compareOnly_eq 1 andOut hb, andOut_fl]

/-- Settles O36: both are of the shape that writes only the flags, those of `cmpOut_fl` and `andOut_fl`. -/
theorem compareTestFlags : Obligations.CompareTestFlags := fun _ a s hb => ⟨exec_cmp hb a s, exec_tst hb a s⟩

/-! ### What the jumps find in a comparison's flags (R194)

Z and C are the unsigned comparison itself. The signed one takes S and O together: S is the sign of the difference as a
word, and O says that the exact difference does not fit a word and so has the other sign. -/

section Conditions
variable (vb va : Word)

theorem compareFlags_z : (compareFlags vb va).z = true ↔ vb = va := decide_eq_true_iff
theorem compareFlags_c : (compareFlags vb va).c = true ↔ vb.toNat < va.toNat := decide_eq_true_iff

theorem compareFlags_s_ne_o : (compareFlags vb va).s ≠ (compareFlags vb va).o ↔ vb.toInt < va.toInt := by
  have hvb := vb.isLt
  have hva := va.isLt
  simp only [compareFlags, ne_eq, decide_eq_decide]
  rcases toInt_cases vb with ⟨hb, hbInt⟩ | ⟨hb, hbInt⟩ <;> rcases toInt_cases va with ⟨ha, haInt⟩ | ⟨ha, haInt⟩ <;>
    omega

theorem condJz_compare : condJz (compareFlags vb va) = true ↔ vb = va := compareFlags_z vb va

theorem condJc_compare : condJc (compareFlags vb va) = true ↔ vb.toNat < va.toNat := compareFlags_c vb va

theorem condJl_compare : condJl (compareFlags vb va) = true ↔ vb.toInt < va.toInt := by
  rw [condJl, bne_iff_ne, compareFlags_s_ne_o]

theorem condJbe_compare : condJbe (compareFlags vb va) = true ↔ vb.toNat ≤ va.toNat := by
  rw [condJbe, Bool.or_eq_true, compareFlags_c, compareFlags_z, le_iff_lt_or_eq, BitVec.toNat_inj]

theorem condJle_compare : condJle (compareFlags vb va) = true ↔ vb.toInt ≤ va.toInt := by
  rw [condJle, Bool.or_eq_true, bne_iff_ne, compareFlags_s_ne_o, compareFlags_z, le_iff_eq_or_lt, BitVec.toInt_inj]

end Conditions

/-! ### Each jump and its opposite -/

section Opposites
variable (f : Flags)

theorem condJnz_eq_not : condJnz f = !condJz f := rfl
theorem condJnc_eq_not : condJnc f = !condJc f := rfl
theorem condJa_eq_not : condJa f = !condJbe f := (Bool.not_or _ _).symm
theorem condJge_eq_not : condJge f = !condJl f := (Bool.not_not _).symm
theorem condJg_eq_not : condJg f = !condJle f := by rw [condJg, condJle, Bool.not_or, bne, Bool.not_not]

end Opposites

/-- A condition that is the opposite of another says the opposite. -/
theorem iff_of_eq_not {c d : Bool} {p q : Prop} (hopposite : d = !c) (hc : c = true ↔ p) (hq : ¬p ↔ q) :
    d = true ↔ q := by
  rw [hopposite, Bool.not_eq_true', ← Bool.not_eq_true, hc, hq]

/-- A conditional jump is taken by whatever its condition is known to say (46_subroutine_jumps.md R222). -/
theorem jumpActs_of_jumpIf {i : Instr} {cond : Flags → Bool} {x : OpA} {s : State} {p : Prop}
    (hexec : exec i s = jumpIf cond x s) (hcond : cond s.fl = true ↔ p) : JumpActs i x p s := by
  rw [JumpActs, hexec, jumpIf_eq, ← hcond]
  exact ⟨fun h => if_pos h, fun h => if_neg h⟩

/-- A CMP that completes did not read PUSH, so it leaves the flags of `compareFlags`. -/
theorem fl_of_exec_cmp {b : OpB} {a : OpA} {s t : State} (h : exec (.cmp b a) s = .next t) :
    t.fl = compareFlags (evaluate b a s).vb (evaluate b a s).va := by
  have hb : b ≠ .push := by
    rintro rfl
    have hfault : exec (.cmp .push a) s = .fault .readOfPush := compareOnly_push 2 a s cmpOut
    rw [hfault] at h
    cases h
  rw [exec_cmp hb] at h
  cases h
  rfl

/-- Settles O53: CMP's flags are `compareFlags` (`fl_of_exec_cmp`), in which five of the jumps test a relation
(`condJz_compare` and its companions) and the other five are their opposites. -/
theorem jumpsAfterCompare : Obligations.JumpsAfterCompare := by
  intro b a x s t hcmp vb va
  have hfl : t.fl = compareFlags vb va := fl_of_exec_cmp hcmp
  have hz := condJz_compare vb va
  have hc := condJc_compare vb va
  have hbe := condJbe_compare vb va
  have hl := condJl_compare vb va
  have hle := condJle_compare vb va
  rw [← hfl] at hz hc hbe hl hle
  exact ⟨jumpActs_of_jumpIf rfl hz,
    jumpActs_of_jumpIf rfl (iff_of_eq_not (condJnz_eq_not t.fl) hz Iff.rfl),
    jumpActs_of_jumpIf rfl hc,
    jumpActs_of_jumpIf rfl (iff_of_eq_not (condJnc_eq_not t.fl) hc not_lt),
    jumpActs_of_jumpIf rfl (iff_of_eq_not (condJa_eq_not t.fl) hbe not_le),
    jumpActs_of_jumpIf rfl hbe,
    jumpActs_of_jumpIf rfl hl,
    jumpActs_of_jumpIf rfl (iff_of_eq_not (condJge_eq_not t.fl) hl not_lt),
    jumpActs_of_jumpIf rfl (iff_of_eq_not (condJg_eq_not t.fl) hle not_le),
    jumpActs_of_jumpIf rfl hle⟩

end Sys2Proof.Proofs.ExtArithCompare
end

-- 8.8 fixed-point multiply and divide (44_fixed_point.md).
section
namespace Sys2Proof.Proofs.FixedPoint

open Sys2Proof Sys2Proof.Machine Sys2Proof.Proofs.Arithmetic

/-! ### FXMUL: a product cut at bit 8 -/

/-- The low 8 bits of an integer fit the word EX unchanged. -/
theorem toNat_w16_emod_256 (p : Int) : ((w16 (p % 256)).toNat : Int) = p % 256 := by
  have hword : (w16 (p % 256)).toNat = (p % 256 % 65536).toNat := BitVec.toNat_ofInt _
  rw [hword]
  omega

/-- The shift rounds down, so the dropped bits count up from it: negative products included. -/
theorem eq_shiftRight_8_add (p : Int) : p = (p >>> (8 : Nat)) * 256 + ((w16 (p % 256)).toNat : Int) := by
  have hshift : p >>> (8 : Nat) = p / 256 := Int.shiftRight_eq_div_pow p 8
  rw [hshift, toNat_w16_emod_256]
  exact (Int.ediv_mul_add_emod p 256).symm

theorem fxmulOut_product (f : Flags) (vb va : Word) :
    ∃ (q : Int) (e : Word), e.toNat < 256 ∧ vb.toInt * va.toInt = q * 256 + (e.toNat : Int) ∧
      fxmulOut f vb va = ⟨w16 q, some e, flagsFor (w16 q) (e.toNat ≠ 0) (q < -32768 ∨ 32767 < q)⟩ := by
  have hdropped := toNat_w16_emod_256 (vb.toInt * va.toInt)
  refine ⟨_, _, by omega, eq_shiftRight_8_add (vb.toInt * va.toInt), ?_⟩
  rw [fxmulOut, flagsOf_of _ (ne_zero_iff _) (outside16_iff _)]

/-! ### FXDIV: the numerator scaled by 256 (decision D13) -/

theorem fxdivOut_zero (f : Flags) (vb : Word) : fxdivOut f vb 0x0000#16 = zeroDivisorOut := rfl

theorem fxdivOut_quotient (f : Flags) (vb : Word) {va : Word} (hva : va ≠ 0x0000#16) :
    fxdivOut f vb va = ⟨w16 ((vb.toInt * 256).tdiv va.toInt), some (w16 ((vb.toInt * 256).tmod va.toInt)),
      flagsFor (w16 ((vb.toInt * 256).tdiv va.toInt)) False False⟩ := by
  simp only [fxdivOut, if_neg hva, flagsOf_clear]

/-! ### The statements -/

/-- Settles O41: the shifted product and the bits it drops (`fxmulOut_product`). -/
theorem fxmulResult : Obligations.FxmulResult := by
  intro b a s hb
  obtain ⟨q, e, hlt, hproduct, hout⟩ := fxmulOut_product s.fl (evaluate b a s).vb (evaluate b a s).va
  exact ⟨q, e, hlt, hproduct, writes_of_readModifyWrite rfl hb hout⟩

/-- Settles O42: `tdiv_spec` characterises the quotient of 256·`b`, whose sign is that of `b`; its remainder fits EX
(`toInt_w16_of_natAbs_lt`). -/
theorem fxdivResult : Obligations.FxdivResult := by
  intro b a s hb vb va
  refine ⟨fun hva => ?_, fun hva => ?_⟩
  · obtain ⟨hsplit, hlt, hpos, hneg⟩ := tdiv_spec (vb.toInt * 256) va.toInt (toInt_ne_zero hva)
    exact ⟨_, _, w16 ((vb.toInt * 256).tmod va.toInt), hsplit, hlt, fun h => by have := hpos h; omega,
      fun h => by have := hneg h; omega, toInt_w16_of_natAbs_lt hlt,
      writes_of_readModifyWrite rfl hb (fxdivOut_quotient s.fl vb hva)⟩
  · have hzero : fxdivOut s.fl vb va = zeroDivisorOut := by rw [hva, fxdivOut_zero]
    exact writes_of_readModifyWrite rfl hb hzero

end Sys2Proof.Proofs.FixedPoint
end

-- Byte access: LDB and STB (45_byte_access.md).
section
namespace Sys2Proof.Proofs.ByteAccess

open Sys2Proof Sys2Proof.Machine Sys2Proof.Proofs.MemoryAccess Sys2Proof.Proofs.BitwiseShift

/-! ### Byte addresses (R212) -/

theorem toNat_wordOfByte (ba : Word) : (wordOfByte ba).toNat = ba.toNat / 2 := by
  rw [wordOfByte, BitVec.toNat_ushiftRight, Nat.shiftRight_eq_div_pow, Nat.pow_one]

theorem wordOfByte_eq_ofNat (ba : Word) : wordOfByte ba = BitVec.ofNat 16 (ba.toNat / 2) := by
  rw [← toNat_wordOfByte, BitVec.ofNat_toNat, BitVec.setWidth_eq]

theorem odd_iff (ba : Word) : ba.getLsbD 0 = true ↔ ¬ba.toNat % 2 = 0 := by
  rw [getLsbD_iff_div_mod, Nat.pow_zero, Nat.div_one, Nat.mod_two_not_eq_zero]

/-! ### The byte named in a word (R210, R211) -/

theorem byteOf_eq (ba wd : Word) : byteOf ba wd = if ba.toNat % 2 = 0 then hiByte wd else loByte wd := by
  simp only [byteOf, odd_iff, ite_not]

theorem withByte_eq (ba wd : Word) (v : Byte) :
    withByte ba wd v = if ba.toNat % 2 = 0 then mkWord v (loByte wd) else mkWord (hiByte wd) v := by
  simp only [withByte, odd_iff, ite_not]

theorem toNat_mkWord (hi lo : Byte) : (mkWord hi lo).toNat = hi.toNat * 256 + lo.toNat := by
  have hsplit := Nat.div_add_mod (mkWord hi lo).toNat 256
  rw [← toNat_hiByte, ← toNat_loByte, hiByte_mkWord, loByte_mkWord] at hsplit
  omega

theorem toNat_byteOf (ba wd : Word) :
    (byteOf ba wd).toNat = if ba.toNat % 2 = 0 then wd.toNat / 256 else wd.toNat % 256 := by
  rw [byteOf_eq, apply_ite BitVec.toNat, toNat_hiByte, toNat_loByte]

theorem toNat_withByte (ba wd : Word) (v : Byte) :
    (withByte ba wd v).toNat =
      if ba.toNat % 2 = 0 then v.toNat * 256 + wd.toNat % 256 else wd.toNat / 256 * 256 + v.toNat := by
  rw [withByte_eq, apply_ite BitVec.toNat, toNat_mkWord, toNat_mkWord, toNat_hiByte, toNat_loByte]

/-- Writing a word back with one byte replaced changes that byte of memory alone: the other byte is the one read. -/
theorem readByte_writeWord_withByte (m : Memory) (ba : Word) (v : Byte) (k : Nat) :
    (m.writeWord (wordOfByte ba).toNat (withByte ba (m.readWord (wordOfByte ba).toNat) v)).readByte k =
      if k = ba.toNat then v else m.readByte k := by
  rw [Memory.readByte_writeWord, withByte_eq, Memory.readWord, toNat_wordOfByte]
  by_cases heven : ba.toNat % 2 = 0
  · have hhigh : 2 * (ba.toNat / 2) = ba.toNat := by omega
    rw [if_pos heven, hiByte_mkWord, loByte_mkWord, loByte_mkWord, hhigh]
    split_ifs with hnamed hother
    · rfl
    · rw [hother]
    · rfl
  · have hlow : 2 * (ba.toNat / 2) + 1 = ba.toNat := by omega
    rw [if_neg heven, hiByte_mkWord, hiByte_mkWord, loByte_mkWord, hlow]
    split_ifs with hother hnamed
    · omega
    · rw [hother]
    · rfl
    · rfl

/-! ### LDB -/

theorem toNat_ldbOut (f : Flags) (ba wd : Word) :
    (ldbOut f ba wd).r.toNat = if ba.toNat % 2 = 0 then wd.toNat / 256 else wd.toNat % 256 := by
  rw [← toNat_byteOf]
  exact BitVec.toNat_setWidth_of_le (by decide)

theorem ldbOut_fl (f : Flags) (ba wd : Word) :
    (ldbOut f ba wd).fl = ⟨decide ((ldbOut f ba wd).r.toNat = 0), f.c, false, f.o⟩ := by
  have hzero : byteOf ba wd = 0x00#8 ↔ (ldbOut f ba wd).r.toNat = 0 := by
    rw [toNat_ldbOut, ← toNat_byteOf, ← BitVec.toNat_inj]
    rfl
  simp only [← hzero]
  rfl

/-- The reads before the result leave the flags, so C and O are kept from before the instruction. -/
theorem exec_ldb (b : OpB) (a : OpA) (s : State) :
    let ba := (readA a s).1
    let lb := locB b (readA a s).2
    let wd := memRead (wordOfByte ba) lb.2
    exec (.ldb b a) s = putOut lb.1 (ldbOut s.fl ba wd.1) (wd.2.charge (2 + costA a + costB b)) := by
  intro ba lb wd
  have hfl : wd.2.fl = s.fl := ((resolve_envStep b a s).trans (memRead_envStep _ _)).fl
  rw [← hfl]
  rfl

/-- Settles O48: `ldbOut` is the byte and its flags, and operand `b` never resolves to POP (`locB_ne_memPop`), the one
location that cannot be written. -/
theorem ldbResult : Obligations.LdbResult := by
  intro b a s ba lb wd
  refine ⟨(ldbOut s.fl ba wd.1).r, toNat_ldbOut _ _ _, ?_⟩
  rw [exec_ldb, wordOfByte_eq_ofNat, putOut, writeLoc_of_ne _ _ (locB_ne_memPop b _), ldbOut_fl]
  rfl

/-! ### STB -/

/-- The state between STB's read and its store: PC and SP are where the operand puts them, nothing is stored. -/
theorem beforeStb_envStep (a : OpA) (s : State) (addr : Word) :
    EnvStep ((s.setPc (s.pc + BitVec.ofNat 16 a.next.length)).setSp (spAfterA a s.sp)) (memRead addr (readA a s).2).2 :=
  (readA_envStep a s).trans (memRead_envStep addr _)

/-- The reads leave A, so the byte stored is that of A before the instruction. -/
theorem exec_stb (a : OpA) (s : State) :
    let ba := (readA a s).1
    let old := memRead (wordOfByte ba) (readA a s).2
    exec (.stb a) s =
      .next ((memWrite (wordOfByte ba) (withByte ba old.1 (loByte (s.reg .A))) old.2).charge (2 + costA a)) := by
  intro ba old
  have hreg : old.2.reg .A = s.reg .A := (beforeStb_envStep a s _).reg .A
  rw [← hreg]
  rfl

/-- Settles O49: neither the reads (`beforeStb_envStep`) nor the store (`memWrite_storeStep`) touch the registers, FL or
EX; in plain RAM the accesses are those of the memory, where one byte changes (`readByte_writeWord_withByte`). -/
theorem stbStoresOneByte : Obligations.StbStoresOneByte := by
  intro a s ba wa old low
  have hreads := beforeStb_envStep a s wa
  have hwa : wa = wordOfByte ba := (wordOfByte_eq_ofNat ba).symm
  have hlow : (loByte (s.reg .A)).toNat = low := toNat_loByte _
  have hstore := memWrite_storeStep wa (withByte ba old.1 (loByte (s.reg .A))) old.2
  refine ⟨_, withByte ba old.1 (loByte (s.reg .A)), ?_, rfl, ?_, hstore.regs.trans hreads.regs,
    hstore.fl.trans hreads.fl, hstore.ex.trans hreads.ex, fun hread hwrite k => ?_⟩
  · rw [toNat_withByte, hlow]
  · rw [exec_stb, wordOfByte_eq_ofNat]
  · have hold : old = ((readA a s).2.mem.readWord wa.toNat, (readA a s).2) := memRead_plain hread
    have hmem : (readA a s).2.mem = s.mem := (readA_envStep a s).mem
    rw [← hlow, ← apply_ite BitVec.toNat, hold, memWrite_plain hwrite, State.charge_mem, State.setMem_mem, hmem, hwa,
      readByte_writeWord_withByte]

end Sys2Proof.Proofs.ByteAccess
end

-- Subroutine calls and conditional jumps (46_subroutine_jumps.md).
section
namespace Sys2Proof.Proofs.SubroutineJumps

open Sys2Proof Sys2Proof.Machine Sys2Proof.Proofs.ExtArithCompare

/-! ### What the conditions of the jumps say (R223 to R235) -/

section Conditions
variable (f : Flags)

theorem condJz_iff : condJz f = true ↔ f.z = true := Iff.rfl
theorem condJc_iff : condJc f = true ↔ f.c = true := Iff.rfl
theorem condJs_iff : condJs f = true ↔ f.s = true := Iff.rfl
theorem condJo_iff : condJo f = true ↔ f.o = true := Iff.rfl
theorem condJnz_iff : condJnz f = true ↔ f.z = false := by rw [condJnz, Bool.not_eq_true']
theorem condJnc_iff : condJnc f = true ↔ f.c = false := by rw [condJnc, Bool.not_eq_true']
theorem condJns_iff : condJns f = true ↔ f.s = false := by rw [condJns, Bool.not_eq_true']

theorem condJbe_iff : condJbe f = true ↔ f.c = true ∨ f.z = true := by rw [condJbe, Bool.or_eq_true]

theorem condJa_iff : condJa f = true ↔ f.c = false ∧ f.z = false := by
  rw [condJa, Bool.and_eq_true, Bool.not_eq_true', Bool.not_eq_true']

theorem condJl_iff : condJl f = true ↔ f.s ≠ f.o := bne_iff_ne

theorem condJge_iff : condJge f = true ↔ f.s = f.o := beq_iff_eq

theorem condJle_iff : condJle f = true ↔ f.z = true ∨ f.s ≠ f.o := by
  rw [condJle, Bool.or_eq_true, bne_iff_ne]

theorem condJg_iff : condJg f = true ↔ f.z = false ∧ f.s = f.o := by
  rw [condJg, Bool.and_eq_true, Bool.not_eq_true', beq_iff_eq]

end Conditions

/-- Settles O52: all thirteen are the one shape of R222 (`jumpActs_of_jumpIf`), each with what its own condition says. -/
theorem jumpConditions : Obligations.JumpConditions := fun _ s =>
  ⟨jumpActs_of_jumpIf rfl (condJz_iff s.fl), jumpActs_of_jumpIf rfl (condJnz_iff s.fl),
    jumpActs_of_jumpIf rfl (condJc_iff s.fl), jumpActs_of_jumpIf rfl (condJnc_iff s.fl),
    jumpActs_of_jumpIf rfl (condJs_iff s.fl), jumpActs_of_jumpIf rfl (condJns_iff s.fl),
    jumpActs_of_jumpIf rfl (condJo_iff s.fl),
    jumpActs_of_jumpIf rfl (condJa_iff s.fl), jumpActs_of_jumpIf rfl (condJbe_iff s.fl),
    jumpActs_of_jumpIf rfl (condJge_iff s.fl), jumpActs_of_jumpIf rfl (condJl_iff s.fl),
    jumpActs_of_jumpIf rfl (condJg_iff s.fl), jumpActs_of_jumpIf rfl (condJle_iff s.fl)⟩

/-! ### JSR and BSR (R220, R221) -/

section Calls
variable (a : OpA) (s : State)

theorem exec_jsr :
    exec (.jsr a) s =
      .next (((push (readA a s).2.pc (readA a s).2).setPc (readA a s).1).charge (3 + costA a)) := rfl

theorem exec_bsr :
    exec (.bsr a) s = .next (((push (readA a s).2.pc (readA a s).2).setPc
      ((readA a s).2.pc + (readA a s).1)).charge (3 + costA a)) := rfl

/-- Once the operand is read, PC is past all of the instruction: the return address. -/
theorem readA_snd_pc : (readA a s).2.pc = s.pc + BitVec.ofNat 16 a.next.length := (readA_envStep a s).pc

theorem readA_snd_sp : (readA a s).2.sp = spAfterA a s.sp := (readA_envStep a s).sp

end Calls

/-- What is pushed to plain RAM is what the stack word holds (R16). -/
theorem readWord_push {s : State} (v : Word) (h : plainRam (s.sp - 1#16) .write s) :
    (push v s).mem.readWord (s.sp - 1#16).toNat = v := by
  have hstack : plainRam (s.sp - 1#16) .write (s.setSp (s.sp - 1#16)) := h
  rw [push, memWrite_plain hstack, State.setMem_mem, Memory.readWord_writeWord, if_pos rfl]

/-- Settles O54: `t` is the push of the return address (`readA_snd_pc`) at the SP the operand leaves (`readA_snd_sp`);
neither reading the operand (`readA_envStep`) nor the push (`push_storeStep`) touches the registers, FL or EX. -/
theorem callsPushReturnAddress : Obligations.CallsPushReturnAddress := by
  intro a s u ret at_ t
  have hpc : u.pc = ret := readA_snd_pc a s
  have hsp : u.sp - 1#16 = at_ := congrArg (· - 1#16) (readA_snd_sp a s)
  have hpush : push u.pc u = t := by rw [push, hpc, hsp]
  have hread := readA_envStep a s
  have hstore : StoreStep at_ (u.setSp at_) t := hpush ▸ hsp ▸ push_storeStep u.pc u
  refine ⟨?_, ?_, hstore.sp, hstore.regs.trans hread.regs, hstore.fl.trans hread.fl, hstore.ex.trans hread.ex,
    (hread.memoryKept _).trans hstore.memory, fun hplain => ?_⟩
  · rw [exec_jsr, hpush]
  · rw [exec_bsr, hpush, hpc]
  · rw [← hpush, ← hsp, readWord_push _ (hsp ▸ hplain), hpc]

end Sys2Proof.Proofs.SubroutineJumps
end

-- Arrival, dispatch, the queue and the boundary (60_exceptions.md R305 to R318).
section
namespace Sys2Proof.Proofs.Interrupts

open Sys2Proof Sys2Proof.Machine Sys2Proof.Proofs.MemoryAccess Sys2Proof.Proofs.MemoryEffect
  Sys2Proof.Proofs.SubroutineJumps Sys2Proof.Proofs.StoreFrame

/-! ### What a store notes and what it leaves (20_memory.md R62 to R66) -/

/-- A store notes a violation if it is one, and in fault mode. -/
theorem memWrite_mpuf_eq (addr v : Word) (s : State) :
    (memWrite addr v s).mpuf = (s.mpuf || (s.mpuCtrl.getLsbD 1 && mpuViolation addr .write s)) := by
  cases hviol : mpuViolation addr .write s with
  | true =>
    rw [memWrite_violation hviol, noteViolation_eq]
    cases s.mpuCtrl.getLsbD 1 <;> simp
  | false =>
    rw [memWrite, hviol, if_neg Bool.false_ne_true, Bool.and_false, Bool.or_false]
    unfold physWrite devWrite scbWrite
    repeat' split
    all_goals rfl

section Kept
variable {ws : List Word} {s t : State}

/-- Words outside the listed ones read as before. -/
theorem readWord_kept (h : MemoryKept ws s t) {x : Nat} (hx : ∀ w ∈ ws, w.toNat ≠ x) :
    t.mem.readWord x = s.mem.readWord x := by
  have hbyte (k : Nat) (hk : k / 2 = x) : t.mem.readByte k = s.mem.readByte k :=
    h k fun w hw => by have := hx w hw; omega
  rw [Memory.readWord, Memory.readWord, hbyte (2 * x) (by omega), hbyte (2 * x + 1) (by omega)]

/-- Stores no higher than the first word of the MMIO window leave the MPU's registers. -/
theorem mpuRegisters_kept (h : ControlKept ws s t) (hws : ∀ w ∈ ws, w.toNat ≤ 0xE000) :
    t.mpuBase = s.mpuBase ∧ t.mpuLimit = s.mpuLimit ∧ t.mpuCtrl = s.mpuCtrl :=
  ⟨h.base fun hw => absurd (hws _ hw) (by decide), h.limit fun hw => absurd (hws _ hw) (by decide),
    h.ctrl fun hw => absurd (hws _ hw) (by decide)⟩

theorem plainRam_kept (h : ControlKept ws s t) (hws : ∀ w ∈ ws, w.toNat ≤ 0xE000) (hcfg : t.cfg = s.cfg) {addr : Word}
    {k : Access} (hplain : plainRam addr k s) : plainRam addr k t := by
  obtain ⟨hbase, hlimit, hctrl⟩ := mpuRegisters_kept h hws
  obtain ⟨hram, hpass⟩ := hplain
  exact ⟨by rwa [hcfg], by rwa [mpuViolation_congr hbase hlimit hctrl]⟩

end Kept

/-! ### The two pushes of a frame (R308, R309) -/

section Frame
variable (m : Word) (s : State)

theorem push_reg (v : Word) (r : Reg) : (push v s).reg r = s.reg r := by
  rw [State.reg, (push_storeStep v s).regs]
  rfl

theorem second_push_addr (v : Word) : (push v s).sp - 1#16 = s.sp - 2#16 := by
  rw [push_sp]
  bv_omega

/-- The second push of a frame is checked by the MPU as it was before the first: if the first lands on a register of the
MPU, the second lands in the MMIO window too. -/
theorem second_push_checked (v : Word) :
    ((push v s).mpuCtrl.getLsbD 1 && mpuViolation (s.sp - 2#16) .write (push v s)) =
      (s.mpuCtrl.getLsbD 1 && mpuViolation (s.sp - 2#16) .write s) := by
  by_cases hwindow : 0xE000 ≤ (s.sp - 2#16).toNat
  · rw [mpuViolation_mmio hwindow, mpuViolation_mmio hwindow, Bool.and_false, Bool.and_false]
  · have hfirst : ∀ w ∈ [s.sp - 1#16], w.toNat ≤ 0xE000 := by
      simp only [List.mem_singleton, forall_eq]
      bv_omega
    obtain ⟨hbase, hlimit, hctrl⟩ := mpuRegisters_kept (push_storesWithin s v).control hfirst
    rw [mpuViolation_congr hbase hlimit hctrl, hctrl]

/-- Entering a handler notes a violation if one of the two pushes is one, and in fault mode. -/
theorem enterHandler_mpuf :
    (enterHandler m s).mpuf = (s.mpuf || (s.mpuCtrl.getLsbD 1 &&
      (mpuViolation (s.sp - 1#16) .write s || mpuViolation (s.sp - 2#16) .write s))) := by
  have hfirst : (push s.pc s).mpuf = (s.mpuf || (s.mpuCtrl.getLsbD 1 && mpuViolation (s.sp - 1#16) .write s)) :=
    memWrite_mpuf_eq _ _ _
  have hsecond := memWrite_mpuf_eq ((push s.pc s).sp - 1#16) ((push s.pc s).reg .A)
    ((push s.pc s).setSp ((push s.pc s).sp - 1#16))
  calc (enterHandler m s).mpuf
      = ((push s.pc s).mpuf || ((push s.pc s).mpuCtrl.getLsbD 1 &&
          mpuViolation ((push s.pc s).sp - 1#16) .write (push s.pc s))) := hsecond
    _ = _ := by rw [second_push_addr, second_push_checked, hfirst, Bool.or_assoc, ← Bool.and_or_distrib_left]

variable {s}

/-- PC is the higher word of the frame: the push of A, one word below, leaves it. -/
theorem enterHandler_frame_pc (h : plainRam (s.sp - 1#16) .write s) :
    (enterHandler m s).mem.readWord (s.sp - 1#16).toNat = s.pc := by
  have hsecond := (push_storesWithin (push s.pc s) ((push s.pc s).reg .A)).memory
  rw [second_push_addr] at hsecond
  calc (enterHandler m s).mem.readWord (s.sp - 1#16).toNat
      = (push s.pc s).mem.readWord (s.sp - 1#16).toNat :=
        readWord_kept hsecond (by simp only [List.mem_singleton, forall_eq]; bv_omega)
    _ = s.pc := readWord_push s.pc h

/-- A is the lower word of the frame. -/
theorem enterHandler_frame_a (h : plainRam (s.sp - 2#16) .write s) :
    (enterHandler m s).mem.readWord (s.sp - 2#16).toNat = s.reg .A := by
  have hfirst : ∀ w ∈ [s.sp - 1#16], w.toNat ≤ 0xE000 := by
    have := h.lt
    simp only [List.mem_singleton, forall_eq]
    bv_omega
  have hplain : plainRam (s.sp - 2#16) .write (push s.pc s) :=
    plainRam_kept (push_storesWithin s s.pc).control hfirst (push_storeStep s.pc s).system.cfg h
  have hpushed : (enterHandler m s).mem.readWord ((push s.pc s).sp - 1#16).toNat = (push s.pc s).reg .A :=
    readWord_push _ (second_push_addr s s.pc ▸ hplain)
  rwa [second_push_addr, push_reg] at hpushed

end Frame

/-! ### Dispatch and the overflow fault (R308, R313) -/

section Dispatch
variable (m : Word) (s : State)

/-- Dispatch is the entry of the handler with IQ set, after which a violation noted is one 0xFFFE at the end of the
queue, if it has room. -/
theorem dispatch_eq :
    dispatch m s = ((enterHandler m (s.setIq true)).setMpuf false).setQueue
      (if (enterHandler m (s.setIq true)).mpuf = true ∧ s.queue.length < 256
        then s.queue ++ [0xFFFE#16] else s.queue) := by
  have hqueue : (enterHandler m (s.setIq true)).queue = s.queue := enterHandler_queue m _
  simp only [dispatch, hqueue]
  cases hmpuf : (enterHandler m (s.setIq true)).mpuf with
  | true =>
    simp only [if_true, true_and]
    split
    · rfl
    · rw [← hqueue]
      rfl
  | false =>
    simp only [Bool.false_eq_true, if_false, false_and]
    rw [← hmpuf, ← hqueue]
    rfl

theorem dispatch_iq : (dispatch m s).iq = true := by
  rw [dispatch_eq]
  exact enterHandler_iq m (s.setIq true)

theorem dispatch_ia : (dispatch m s).ia = s.ia := by
  rw [dispatch_eq]
  exact enterHandler_ia m (s.setIq true)

theorem dispatch_arrivals : (dispatch m s).arrivals = s.arrivals := by
  rw [dispatch_eq]
  exact enterHandler_arrivals m (s.setIq true)

/-- Settles O19: `dispatch_eq`, with the laws of `enterHandler` for each field and the frame. -/
theorem dispatchTakesInterrupt : Obligations.DispatchTakesInterrupt := by
  intro m s
  have hreg := enterHandler_reg m (s.setIq true)
  have hstores := dispatch_storesWithin s m
  rw [dispatch_eq] at hstores ⊢
  refine ⟨enterHandler_iq m (s.setIq true), enterHandler_pc m (s.setIq true), enterHandler_sp m (s.setIq true),
    (hreg .A).trans (if_pos rfl), fun r hr => (hreg r).trans (if_neg (by simpa using hr)), rfl,
    enterHandler_ex m (s.setIq true), enterHandler_fl m (s.setIq true), enterHandler_ia m (s.setIq true),
    enterHandler_cfg m (s.setIq true), enterHandler_arrivals m (s.setIq true), enterHandler_hostStop m (s.setIq true),
    hstores.memory, hstores.control, rfl, enterHandler_frame_pc (s := s.setIq true) m,
    enterHandler_frame_a (s := s.setIq true) m, if_congr (and_congr_left' ?_) rfl rfl⟩
  rw [enterHandler_mpuf, Bool.or_eq_true, Bool.and_eq_true, Bool.or_eq_true]
  rfl

/-- Settles O23: the entry of the handler with 0xFFFF, field by field. -/
theorem overflowFaultEntry : Obligations.OverflowFaultEntry := fun s =>
  let m := 0xFFFF#16
  have hreg := enterHandler_reg m s
  have hstores := (enterHandler_storesWithin s m).andThen (storage_setMpuf _ false)
  ⟨enterHandler_pc m s, enterHandler_sp m s, (hreg .A).trans (if_pos rfl),
    fun r hr => (hreg r).trans (if_neg (by simpa using hr)), rfl, enterHandler_iq m s, enterHandler_queue m s,
    enterHandler_ex m s, enterHandler_fl m s, enterHandler_ia m s, rfl, hstores.memory, hstores.control,
    enterHandler_frame_pc m, enterHandler_frame_a m⟩

end Dispatch

/-! ### Return from interrupt (R310, 47_interrupt_instr.md R253) -/

section Return
variable {s : State}

/-- In plain RAM the return takes A and PC off the stack, clears IQ, and does nothing else. -/
theorem returnFromInterrupt_plain (hlow : plainRam s.sp .read s) (hhigh : plainRam (s.sp + 1#16) .read s) :
    returnFromInterrupt s =
      ((((s.setReg .A (s.mem.readWord s.sp.toNat)).setSp (s.sp + 1#16 + 1#16)).setPc
        (s.mem.readWord (s.sp + 1#16).toNat)).setIq false) := by
  have hsecond : plainRam (s.sp + 1#16) .read ((s.setSp (s.sp + 1#16)).setReg .A (s.mem.readWord s.sp.toNat)) := hhigh
  have hpop := memRead_plain hsecond
  simp only [returnFromInterrupt, pop_eq, memRead_plain hlow, State.setReg_sp, State.setSp_sp, hpop]
  rfl

end Return

/-- Settles O20: the frame's words are plain RAM for the return too, as no store below the MMIO window reaches the MPU
(`plainRam_kept`); the return takes back what `enterHandler_frame_a` and `enterHandler_frame_pc` find there. -/
theorem returnRestoresFrame : Obligations.ReturnRestoresFrame := by
  intro m s hpcw haw hpcr har h r
  obtain ⟨-, -, hsp, -, hregs, -, hex, hfl, hia, hcfg, -, -, hmem, hctrl, -, hpcword, haword, -⟩ :=
    dispatchTakesInterrupt m s
  have hbelow : ∀ w ∈ [s.sp - 1#16, s.sp - 2#16], w.toNat ≤ 0xE000 := by
    simp only [List.forall_mem_cons, List.not_mem_nil, false_imp_iff, implies_true, and_true]
    exact ⟨hpcw.lt.le, haw.lt.le⟩
  have hlow : h.sp = s.sp - 2#16 := hsp
  have hhigh : h.sp + 1#16 = s.sp - 1#16 := by rw [hlow]; bv_omega
  have ha : h.mem.readWord h.sp.toNat = s.reg .A := by rw [hlow]; exact haword haw
  have hpc : h.mem.readWord (h.sp + 1#16).toNat = s.pc := by rw [hhigh]; exact hpcword hpcw
  have hreturn := returnFromInterrupt_plain (hlow ▸ plainRam_kept hctrl hbelow hcfg har)
    (hhigh ▸ plainRam_kept hctrl hbelow hcfg hpcr)
  rw [ha, hpc] at hreturn
  refine ⟨ha, hpc, ?_⟩
  rw [show r = _ from hreturn]
  refine ⟨State.regs_ext fun q => ?_, rfl, ?_, rfl, hex, hfl, hia, hmem⟩
  · show (h.setReg .A (s.reg .A)).reg q = s.reg q
    rw [State.reg_setReg]
    split
    · next hq => rw [hq]
    · next hq => exact hregs q (by simpa using hq)
  · show h.sp + 1#16 + 1#16 = s.sp
    rw [hlow]
    bv_omega

/-! ### Arrival and the queue policy (R306, R312) -/

section Arrival
variable (m : Word) {s : State}

theorem arrive_discarded (hia : s.ia = 0x0000#16) : arrive m s = s := if_pos hia

theorem arrive_queued (hia : s.ia ≠ 0x0000#16) (hiq : s.iq = true) : arrive m s = enqueue m s := by
  rw [arrive, if_neg hia, if_pos hiq]

theorem arrive_dispatched (hia : s.ia ≠ 0x0000#16) (hiq : s.iq = false) : arrive m s = dispatch m s := by
  rw [arrive, if_neg hia, hiq, if_neg Bool.false_ne_true]

/-- Settles O21: the three branches of `arrive`. -/
theorem arrivalByState : Obligations.ArrivalByState := fun m _ =>
  ⟨arrive_discarded m, arrive_queued m, arrive_dispatched m⟩

theorem enqueueMsg_room (h : s.queue.length < 256) : enqueueMsg m s = s.setQueue (s.queue ++ [m]) := if_pos h

theorem enqueueMsg_oldest (h : 256 ≤ s.queue.length) (hmode : s.sysIqm = 0x0001#16) :
    enqueueMsg m s = s.setQueue (s.queue.tail ++ [m]) := by
  rw [enqueueMsg, if_neg (by omega), if_pos hmode, List.drop_one]

theorem enqueueMsg_fault (h : 256 ≤ s.queue.length) (hmode : s.sysIqm = 0x0002#16) :
    enqueueMsg m s = overflowFault s := by
  rw [enqueueMsg, if_neg (by omega), if_neg (by rw [hmode]; decide), if_pos hmode]

theorem enqueueMsg_drop (h : 256 ≤ s.queue.length) (hdrop : s.sysIqm ≠ 0x0001#16) (hfault : s.sysIqm ≠ 0x0002#16) :
    enqueueMsg m s = s := by
  rw [enqueueMsg, if_neg (by omega), if_neg hdrop, if_neg hfault]

theorem enqueueMsg_cfg : (enqueueMsg m s).cfg = s.cfg := by
  unfold enqueueMsg
  repeat' split
  any_goals rfl
  exact enterHandler_cfg 0xFFFF#16 s

/-- Without the wake-up parameter queueing leaves HALTED to the policy. -/
theorem enqueue_asleep (h : s.cfg.hltWakeOnQueued = false) : enqueue m s = enqueueMsg m s := by
  rw [enqueue, enqueueMsg_cfg, h, Bool.and_false, if_neg Bool.false_ne_true]

/-- With the wake-up parameter the CPU runs after queueing, whatever became of the message. -/
theorem enqueue_awake (h : s.cfg.hltWakeOnQueued = true) : enqueue m s = (enqueueMsg m s).setHalted false := by
  rw [enqueue, enqueueMsg_cfg, h, Bool.and_true]
  split
  · rfl
  · next hrun =>
    rw [Bool.not_eq_true] at hrun
    rw [← hrun]
    rfl

/-- Settles O22: the four branches of `enqueueMsg`, under `enqueue_asleep` and `enqueue_awake`; the overflow fault ends
a halt by itself. -/
theorem queuePolicy : Obligations.QueuePolicy := fun m s =>
  ⟨fun hwake => by
    rw [enqueue_asleep m hwake]
    exact ⟨enqueueMsg_room m, enqueueMsg_oldest m, enqueueMsg_fault m, enqueueMsg_drop m⟩,
  fun hwake => by
    rw [enqueue_awake m hwake]
    exact ⟨fun h => by rw [enqueueMsg_room m h], fun h hmode => by rw [enqueueMsg_oldest m h hmode],
      fun h hmode => by rw [enqueueMsg_fault m h hmode]; rfl,
      fun h hdrop hfault => by rw [enqueueMsg_drop m h hdrop hfault]⟩⟩

/-- On a running CPU the wake-up makes no difference. -/
theorem enqueue_running (hrun : s.halted = false) (h : s.queue.length < 256) :
    enqueue m s = s.setQueue (s.queue ++ [m]) := by
  rw [enqueue, enqueueMsg_room m h, State.setQueue_halted, hrun, Bool.false_and, if_neg Bool.false_ne_true]

end Arrival

/-! ### The boundary (R305) -/

section Boundary
variable {s : State}

theorem deliverQueued_idle (h : s.iq = true ∨ s.queue = []) : deliverQueued s = s := by
  unfold deliverQueued
  split
  · rfl
  · next hiq => rw [h.resolve_left hiq]

theorem deliverQueued_cons {m : Word} {rest : List Word} (hiq : s.iq = false) (hqueue : s.queue = m :: rest) :
    deliverQueued s = deliver m (s.setQueue rest) := by
  simp only [deliverQueued, hiq, hqueue, Bool.false_eq_true, if_false]

theorem takeArrivals_nil (h : s.arrivals = []) : takeArrivals s = s := by rw [takeArrivals, h]

theorem takeArrivals_cons {ms : List Word} {later : List (List Word)} (h : s.arrivals = ms :: later) :
    takeArrivals s = ms.foldl (fun t m => arrive m t) (s.setArrivals later) := by rw [takeArrivals, h]

theorem foldl_arrive_discarded (hia : s.ia = 0x0000#16) (ms : List Word) :
    ms.foldl (fun t m => arrive m t) s = s := by
  induction ms with
  | nil => rfl
  | cons m ms ih => rw [List.foldl_cons, arrive_discarded m hia, ih]

/-- Without a handler the arrivals of a boundary are only used up. -/
theorem takeArrivals_discarded (hia : s.ia = 0x0000#16) : takeArrivals s = s.setArrivals s.arrivals.tail := by
  cases h : s.arrivals with
  | nil =>
    rw [takeArrivals_nil h, List.tail_nil, ← h]
    rfl
  | cons ms later => rw [takeArrivals_cons h, foldl_arrive_discarded (s := s.setArrivals later) hia, List.tail_cons]

/-- On a running CPU with IQ set arriving messages join the queue in order, while there is room. -/
theorem foldl_arrive_queued (ms : List Word) (hia : s.ia ≠ 0x0000#16) (hiq : s.iq = true) (hrun : s.halted = false)
    (hroom : s.queue.length + ms.length ≤ 256) :
    ms.foldl (fun t m => arrive m t) s = s.setQueue (s.queue ++ ms) := by
  induction ms generalizing s with
  | nil => rw [List.append_nil]; rfl
  | cons m ms ih =>
    rw [List.length_cons] at hroom
    rw [List.foldl_cons, arrive_queued m hia hiq, enqueue_running m hrun (by omega),
      ih (s := s.setQueue (s.queue ++ [m])) hia hiq hrun (by
        rw [State.setQueue_queue, List.length_append, List.length_singleton]; omega),
      State.setQueue_queue, List.append_assoc, List.singleton_append]
    rfl

/-- With nothing to deliver the boundary is its arrivals. -/
theorem boundary_idle (h : s.iq = true ∨ s.queue = []) : boundary s = takeArrivals s := by
  rw [boundary, deliverQueued_idle h]

theorem boundary_cons {m : Word} {rest : List Word} (hia : s.ia ≠ 0x0000#16) (hiq : s.iq = false)
    (hqueue : s.queue = m :: rest) : boundary s = takeArrivals (dispatch m (s.setQueue rest)) := by
  rw [boundary, deliverQueued_cons hiq hqueue, deliver, State.setQueue_ia, if_neg hia]

/-- Without a handler the boundary discards one queued message. -/
theorem boundary_cons_discarded {m : Word} {rest : List Word} (hia : s.ia = 0x0000#16) (hiq : s.iq = false)
    (hqueue : s.queue = m :: rest) : boundary s = (s.setQueue rest).setArrivals s.arrivals.tail := by
  rw [boundary, deliverQueued_cons hiq hqueue, deliver, State.setQueue_ia, if_pos hia]
  exact takeArrivals_discarded hia

theorem reportViolation_none (h : s.mpuf = false) : reportViolation s = s := by
  rw [reportViolation, h, if_neg Bool.false_ne_true]

theorem reportViolation_noted (h : s.mpuf = true) : reportViolation s = arrive 0xFFFE#16 (s.setMpuf false) := by
  rw [reportViolation, if_pos h]

end Boundary

/-- With no violation noted or made by its pushes, dispatch leaves the queue. -/
theorem dispatch_queue_kept (m : Word) {s : State} (hmpuf : s.mpuf = false)
    (hhigh : mpuViolation (s.sp - 1#16) .write s = false) (hlow : mpuViolation (s.sp - 2#16) .write s = false) :
    (dispatch m s).queue = s.queue := by
  have hnone : (enterHandler m (s.setIq true)).mpuf = false := by
    rw [enterHandler_mpuf]
    show (s.mpuf || (s.mpuCtrl.getLsbD 1 &&
      (mpuViolation (s.sp - 1#16) .write s || mpuViolation (s.sp - 2#16) .write s))) = false
    rw [hmpuf, hhigh, hlow, Bool.or_self, Bool.and_false, Bool.or_false]
  rw [dispatch_eq, hnone, State.setQueue_queue, if_neg (by simp)]

/-- Settles O24: a queued message is dispatched, which sets IQ, so the arrivals after it are queued
(`foldl_arrive_queued`); the other clauses are the boundary's and the report's branches. -/
theorem boundaryKeepsOrder : Obligations.BoundaryKeepsOrder := by
  refine ⟨?_, ?_, fun s m rest => boundary_cons_discarded, fun s => ⟨endOfInstruction_mpuf s, ?_, fun hnoted => ?_⟩⟩
  · intro s m rest ms later hiq hia hqueue harrivals hroom hmpuf hhigh hlow
    have hia' : (dispatch m (s.setQueue rest)).ia ≠ 0x0000#16 := (dispatch_ia m _).trans_ne hia
    have hkept : (dispatch m (s.setQueue rest)).queue = rest := dispatch_queue_kept m hmpuf hhigh hlow
    rw [boundary_cons hia hiq hqueue, takeArrivals_cons ((dispatch_arrivals m (s.setQueue rest)).trans harrivals),
      foldl_arrive_queued (s := (dispatch m (s.setQueue rest)).setArrivals later) ms hia' (dispatch_iq m _)
        (dispatch_halted m _) (by rw [State.setArrivals_queue, hkept]; exact hroom),
      State.setArrivals_queue, hkept]
    rfl
  · intro s hidle
    rw [boundary_idle hidle]
    exact ⟨takeArrivals_nil, fun _ _ => takeArrivals_cons⟩
  · intro hnone
    rw [endOfInstruction, reportViolation_none hnone]
  · rw [endOfInstruction, reportViolation_noted hnoted]
    exact ⟨fun hia => by rw [arrive_discarded (s := s.setMpuf false) _ hia],
      fun hia hiq => by rw [arrive_dispatched (s := s.setMpuf false) _ hia hiq],
      fun hia hiq => by rw [arrive_queued (s := s.setMpuf false) _ hia hiq]⟩

/-! ### The halted CPU (R318, 49_block_system.md R274) -/

section Halted
variable {s : State}

theorem step_halted (hstop : s.hostStop = .running) (hhalted : s.halted = true) : step s = .next (boundary s) := by
  simp only [step, hstop, hhalted, if_true]

/-- Queueing the first message on a halted CPU ends the halt if the wake-up parameter says so. -/
theorem enqueue_first_halted (m : Word) (hhalted : s.halted = true) (hqueue : s.queue = []) :
    enqueue m s = (s.setQueue [m]).setHalted (!s.cfg.hltWakeOnQueued) := by
  have hmsg : enqueueMsg m s = s.setQueue [m] := by
    rw [enqueueMsg_room m (by rw [hqueue]; decide), hqueue, List.nil_append]
  cases hwake : s.cfg.hltWakeOnQueued with
  | true => rw [enqueue_awake m hwake, hmsg, Bool.not_true]
  | false =>
    rw [enqueue_asleep m hwake, hmsg, Bool.not_false, ← hhalted]
    rfl

/-- Settles O25: a halted step is the boundary (`step_halted`). -/
theorem haltedStepByState : Obligations.HaltedStepByState := by
  intro s m later hstop hhalted
  rw [step_halted hstop hhalted]
  refine ⟨fun hqueue harrivals => ?_, fun hqueue harrivals => ?_, fun hqueue hia hiq harrivals => ?_,
    fun hqueue hia hiq harrivals => ?_, fun rest hqueue hia hiq harrivals => ?_⟩
  · rw [boundary_idle (.inr hqueue), takeArrivals_nil harrivals]
  · rw [boundary_idle (.inr hqueue), takeArrivals_cons harrivals, List.foldl_nil]
  · rw [boundary_idle (.inr hqueue), takeArrivals_cons harrivals, List.foldl_cons, List.foldl_nil,
      arrive_dispatched (s := s.setArrivals later) m hia hiq]
  · rw [boundary_idle (.inr hqueue), takeArrivals_cons harrivals, List.foldl_cons, List.foldl_nil,
      arrive_queued (s := s.setArrivals later) m hia hiq,
      enqueue_first_halted (s := s.setArrivals later) m hhalted hqueue]
    rfl
  · rw [boundary_cons hia hiq hqueue, takeArrivals_nil ((dispatch_arrivals m (s.setQueue rest)).trans harrivals)]

/-- Only messages, waiting in the queue or still to arrive, have been used up. -/
def MessagesUsed (s t : State) : Prop := ∃ queue arrivals, t = (s.setQueue queue).setArrivals arrivals

theorem MessagesUsed.refl (s : State) : MessagesUsed s s := ⟨s.queue, s.arrivals, rfl⟩

theorem MessagesUsed.trans {s t u : State} (h : MessagesUsed s t) (g : MessagesUsed t u) : MessagesUsed s u := by
  obtain ⟨_, _, rfl⟩ := h
  obtain ⟨queue, arrivals, rfl⟩ := g
  exact ⟨queue, arrivals, rfl⟩

theorem MessagesUsed.halted {s t : State} (h : MessagesUsed s t) : t.halted = s.halted := by
  obtain ⟨_, _, rfl⟩ := h
  rfl

theorem MessagesUsed.ia {s t : State} (h : MessagesUsed s t) : t.ia = s.ia := by
  obtain ⟨_, _, rfl⟩ := h
  rfl

theorem boundary_withoutHandler (hia : s.ia = 0x0000#16) : MessagesUsed s (boundary s) := by
  by_cases hidle : s.iq = true ∨ s.queue = []
  · rw [boundary_idle hidle, takeArrivals_discarded hia]
    exact ⟨s.queue, _, rfl⟩
  · obtain ⟨hiq, hqueue⟩ := not_or.mp hidle
    obtain ⟨m, rest, hqueue⟩ := List.exists_cons_of_ne_nil hqueue
    rw [boundary_cons_discarded hia (Bool.not_eq_true _ ▸ hiq) hqueue]
    exact ⟨rest, _, rfl⟩

/-- Halted with no handler, a step does no more than discard messages, or nothing if the host has stopped the CPU. -/
theorem step_haltedWithoutHandler (hhalted : s.halted = true) (hia : s.ia = 0x0000#16) :
    ∃ t, step s = .next t ∧ MessagesUsed s t := by
  by_cases hstop : s.hostStop = .running
  · exact ⟨_, step_halted hstop hhalted, boundary_withoutHandler hia⟩
  · exact ⟨s, step_stopped hstop, .refl s⟩

theorem run_succ {n : Nat} {t : State} (h : step s = .next t) :
    Host.Core.run Sys2Proof.core (n + 1) s = Host.Core.run Sys2Proof.core n t := by
  have hcore : Sys2Proof.core.step s = .next t := h
  simp only [Host.Core.run, hcore]

theorem run_haltedWithoutHandler (n : Nat) (hhalted : s.halted = true) (hia : s.ia = 0x0000#16) :
    ∃ t, Host.Core.run Sys2Proof.core n s = .next t ∧ MessagesUsed s t := by
  induction n generalizing s with
  | zero => exact ⟨s, rfl, .refl s⟩
  | succ n ih =>
    obtain ⟨t, hstep, hused⟩ := step_haltedWithoutHandler hhalted hia
    obtain ⟨u, hrun, hrest⟩ := ih (s := t) (hused.halted.trans hhalted) (hused.ia.trans hia)
    exact ⟨u, (run_succ hstep).trans hrun, hused.trans hrest⟩

/-- Settles O7: `run_haltedWithoutHandler`, by induction on the steps. -/
theorem haltWithoutHandlerIsForGood : Obligations.HaltWithoutHandlerIsForGood := by
  intro n s hhalted hia
  obtain ⟨_, hrun, _, _, rfl⟩ := run_haltedWithoutHandler n hhalted hia
  exact ⟨_, hrun, hhalted, hia, rfl, rfl, rfl, rfl, rfl, rfl, rfl, rfl, rfl, rfl, rfl⟩

end Halted

end Sys2Proof.Proofs.Interrupts
end

-- The interrupt instructions (47_interrupt_instr.md).
section
namespace Sys2Proof.Proofs.InterruptInstr

open Sys2Proof Sys2Proof.Machine Sys2Proof.Proofs.SubroutineJumps Sys2Proof.Proofs.Interrupts

section Exec
variable (a : OpA) (s : State)

theorem exec_int : exec (.int a) s = .next ((arrive (readA a s).1 (readA a s).2).charge (4 + costA a)) := rfl

theorem exec_ias : exec (.ias a) s = .next (((readA a s).2.setIa (readA a s).1).charge (1 + costA a)) := rfl

theorem exec_iaq :
    exec (.iaq a) s = .next (((readA a s).2.setIq ((readA a s).1 != 0x0000#16)).charge (1 + costA a)) := by
  have hbit : decide ((readA a s).1 ≠ 0x0000#16) = ((readA a s).1 != 0x0000#16) := decide_not
  rw [← hbit]
  rfl

theorem exec_rfi : exec (.rfi a) s = .next ((returnFromInterrupt (passed a s)).charge 3) := by
  rw [← passA_eq]
  rfl

variable {a}

/-- IAG does not read its operand: only PC has moved when IA is written. -/
theorem exec_iag (ha : a ≠ .pop) :
    exec (.iag a) s = .next (storeLoc (locA a s).1 s.ia ((passed a s).charge (1 + costA a))) := by
  have hloc : (locA a s).2 = passed a s := by
    rw [locA_state, spAfterA, if_neg ha]
    rfl
  have hwrite := writeLoc_of_ne (passed a s).ia ((passed a s).charge (1 + costA a))
    fun w h => ha (locA_memPop a s w h)
  simp only [exec, execIag, hloc, hwrite]
  rfl

end Exec

/-- Settles O55: INT is an arrival after its operand (`exec_int`), which leaves IA, IQ, the queue and HALTED. -/
theorem intPresentsMessage : Obligations.IntPresentsMessage := by
  intro a s m u
  have hread := readA_envStep a s
  have hia : u.ia = s.ia := hread.ia
  have hiq : u.iq = s.iq := hread.iq
  have hqueue : u.queue = s.queue := hread.queue
  have hhalted : u.halted = s.halted := hread.halted
  rw [exec_int, ← hia, ← hiq, ← hqueue, ← hhalted]
  refine ⟨readA_snd_pc a s, fun hia => ?_, fun hia hiq => ?_, fun hia hiq hroom hrun => ?_, fun hia hiq => ?_⟩
  · rw [arrive_discarded m hia]
  · rw [arrive_dispatched m hia hiq]
  · rw [arrive_queued m hia hiq, enqueue_running m hrun hroom]
  · rw [arrive_queued m hia hiq]

/-- Settles O56: the three instructions as their meanings have them. -/
theorem handlerRegisterInstructions : Obligations.HandlerRegisterInstructions := fun a s =>
  ⟨exec_iag s, exec_ias a s, exec_iaq a s⟩

/-! ### RFI (R253) -/

/-- The return, wherever the stack is: A is what the word at SP reads as, PC some word, SP moves up by two, IQ clears,
and the two reads do what reads may do. -/
theorem returnFromInterrupt_envStep (s : State) :
    EnvStep ((((s.setReg .A (memRead s.sp s).1).setSp (s.sp + 2#16)).setPc (returnFromInterrupt s).pc).setIq false)
      (returnFromInterrupt s) := by
  obtain ⟨x1, x2, x3, x4, x5, hfirst⟩ := memRead_envStep s.sp s
  obtain ⟨y1, y2, y3, y4, y5, hsecond⟩ := memRead_envStep (s.sp + 1#16)
    (((memRead s.sp s).2.setSp (s.sp + 1#16)).setReg .A (memRead s.sp s).1)
  have hsp : s.sp + 1#16 + 1#16 = s.sp + 2#16 := by bv_omega
  refine ⟨y1, y2, y3, y4, y5, ?_⟩
  simp only [returnFromInterrupt, pop_eq, State.setReg_sp, State.setSp_sp, hsp]
  rw [hsecond, hfirst]
  rfl

/-- Settles O57: what the return does anywhere is `returnFromInterrupt_envStep`, what it does on a stack in plain RAM is
`returnFromInterrupt_plain`; the operand only moves PC. -/
theorem rfiPopsFrame : Obligations.RfiPopsFrame := by
  intro a s
  have hreturn := returnFromInterrupt_envStep (passed a s)
  have hregs (r : Reg) : (returnFromInterrupt (passed a s)).reg r =
      if r = .A then (memRead s.sp (passed a s)).1 else s.reg r :=
    (hreturn.reg r).trans (State.reg_setReg (passed a s) _ _ _)
  refine ⟨_, exec_rfi a s, hreturn.sp, hreturn.iq, fun r hr => (hregs r).trans (if_neg (by simpa using hr)), hreturn.ex,
    hreturn.fl, hreturn.ia, hreturn.queue, hreturn.halted, hreturn.mem, congrArg (· + 3) hreturn.cycles,
    fun hlow => ?_, fun hlow hhigh => ?_⟩
  · have hplain : memRead s.sp (passed a s) = (s.mem.readWord s.sp.toNat, passed a s) := memRead_plain hlow
    rw [State.charge_reg, hregs, if_pos rfl, hplain]
  · rw [returnFromInterrupt_plain (s := passed a s) hlow hhigh]
    exact ⟨rfl, rfl⟩

end Sys2Proof.Proofs.InterruptInstr
end

-- NEG, NOT, SXB and SWP (48_unary.md).
section
namespace Sys2Proof.Proofs.Unary

open Sys2Proof Sys2Proof.Machine Sys2Proof.Proofs.MemoryAccess Sys2Proof.Proofs.Arithmetic
  Sys2Proof.Proofs.ByteAccess

section Computations
variable (f : Flags) (v : Word)

/-- NEG subtracts from 0, which borrows unless the operand is 0 and overflows for 0x8000 alone. -/
theorem negOut_difference :
    ∃ r : Word, (r.toNat + v.toNat) % 65536 = 0 ∧
      negOut f v = ⟨r, none, flagsFor r (v.toNat ≠ 0) (v = 0x8000#16)⟩ := by
  have hv := v.isLt
  have hborrow : (0x0000#16).toNat < v.toNat ↔ v.toNat ≠ 0 := Nat.pos_iff_ne_zero
  have hoverflow : ((0x0000#16).toInt - v.toInt < -32768 ∨ 32767 < (0x0000#16).toInt - v.toInt) ↔ v = 0x8000#16 := by
    have hcases := toInt_cases v
    have hzero : (0x0000#16).toInt = 0 := rfl
    have hword : v = 0x8000#16 ↔ v.toNat = 32768 := BitVec.toNat_inj.symm
    rw [hzero, hword]
    omega
  refine ⟨BitVec.ofNat 16 ((0x0000#16).toNat + 65536 - v.toNat), ?_, ?_⟩
  · rw [BitVec.toNat_ofNat, BitVec.toNat_ofNat]
    omega
  · rw [← flagsFor_congr _ hborrow hoverflow]
    show { subOut f 0x0000#16 v with ex := none } = _
    rw [subOut_eq]

theorem notOut_complement :
    ∃ r : Word, r.toNat = 65535 - v.toNat ∧ notOut f v = ⟨r, none, flagsFor r False False⟩ := by
  refine ⟨v ^^^ 0xFFFF#16, ?_, ?_⟩
  · have hnot : v ^^^ 0xFFFF#16 = ~~~v := BitVec.xor_allOnes
    rw [hnot, BitVec.toNat_not]
  · rw [← flagsOf_clear]
    rfl

theorem sxbOut_signed :
    ∃ r : Word,
      r.toInt = (if v.toNat % 256 < 128 then ((v.toNat % 256 : Nat) : Int) else (v.toNat % 256 : Nat) - 256) ∧
      sxbOut f v = ⟨r, none, ⟨decide (r.toNat = 0), f.c, decide (128 ≤ v.toNat % 256), f.o⟩⟩ := by
  have hsigned : ((loByte v).signExtend 16).toInt =
      (if v.toNat % 256 < 128 then ((v.toNat % 256 : Nat) : Int) else (v.toNat % 256 : Nat) - 256) := by
    rw [BitVec.toInt_signExtend_of_le (by decide), BitVec.toInt_eq_toNat_cond, toNat_loByte]
    exact if_congr (by omega) rfl rfl
  have hnegative : ((loByte v).signExtend 16).toInt < 0 ↔ 128 ≤ v.toNat % 256 := by
    rw [hsigned]
    split <;> omega
  refine ⟨_, hsigned, ?_⟩
  rw [sxbOut, flagsOf_eq, flagsFor, ← getLsbD_15, getLsbD_15_int]
  simp only [hnegative, Bool.decide_eq_true]

theorem toNat_swpOut : (swpOut f v).r.toNat = v.toNat % 256 * 256 + v.toNat / 256 := by
  show (mkWord (loByte v) (hiByte v)).toNat = _
  rw [toNat_mkWord, toNat_loByte, toNat_hiByte]

end Computations

/-- An instruction of the unary shape writes whatever its computation is known to give. -/
theorem exec_unary {i : Instr} {f : Flags → Word → AluOut} {a : OpA} {s : State} {o : AluOut}
    (hexec : exec i s = unaryOp 1 f a s) (ha : a ≠ .pop) (hout : f s.fl (readA a s).1 = o) :
    exec i s = .next (storeLoc (locA a s).1 o.r
      ((putEx o.ex ((readA a s).2.charge (1 + costA a))).setFl o.fl)) := by
  rw [hexec, unaryOp_eq 1 f ha, hout]

/-- Settles O47: the four computations through the one location; SWP puts back the flags the operand's read has left. -/
theorem unaryResults : Obligations.UnaryResults := by
  intro a s ha v u
  obtain ⟨neg, hneg, hnegOut⟩ := negOut_difference s.fl v
  obtain ⟨not, hnot, hnotOut⟩ := notOut_complement s.fl v
  obtain ⟨sxb, hsxb, hsxbOut⟩ := sxbOut_signed s.fl v
  refine ⟨⟨neg, hneg, exec_unary rfl ha hnegOut⟩, ⟨not, hnot, exec_unary rfl ha hnotOut⟩,
    ⟨sxb, hsxb, exec_unary rfl ha hsxbOut⟩, ⟨(swpOut s.fl v).r, toNat_swpOut s.fl v, ?_⟩⟩
  have hfl : s.fl = u.fl := (readA_envStep a s).fl.symm
  have hkept : u.setFl s.fl = u := by
    rw [hfl]
    rfl
  rw [exec_unary (f := swpOut) rfl ha rfl]
  exact congrArg (fun w => Host.Outcome.next (storeLoc _ _ w)) hkept

end Sys2Proof.Proofs.Unary
end

-- The System Control Block (60_exceptions.md R331 to R333).
section
namespace Sys2Proof.Proofs.ControlBlock

open Sys2Proof Sys2Proof.Machine Sys2Proof.Proofs.MemoryAccess Sys2Proof.Proofs.DeviceSlots Sys2Proof.Proofs.CondSkip

/-! ### Reads (R332) -/

/-- A read at any offset of slot 0 is the control block's: the MPU never blocks it. -/
theorem memRead_controlBlock {off : Nat} (hoff : off < 256) (s : State) :
    memRead (slotBase 0 + BitVec.ofNat 16 off) s = scbRead off s := by
  have haddr := toNat_slotBase_add (slot := 0) (by decide) hoff
  rw [memRead_mmio (by omega), slotOf_slotBase_add (by decide) hoff, offsetOf_slotBase_add (by decide) hoff, devRead,
    if_pos rfl]

theorem draw_sysTicks (s : State) : (draw s).2.sysTicks = s.sysTicks := by
  unfold draw
  split <;> rfl

theorem readTicks_eq (s : State) :
    readTicks s = (s.sysTicks + (draw s).1, (draw s).2.setSysTicks (s.sysTicks + (draw s).1)) := by
  simp only [readTicks, draw_sysTicks]

theorem draw_supplied {s : State} {v : Word} {rest : List Word} (h : s.supply = v :: rest) :
    draw s = (v, s.setSupply rest) := by rw [draw, h]

theorem draw_free {s : State} (h : s.supply = []) : draw s = (Config.freeDraw s.drawn, s.setDrawn (s.drawn + 1)) := by
  rw [draw, h]

/-- The installed words fit the register that shows them. -/
theorem toNat_ram_words (r : RamTier) : (BitVec.ofNat 16 r.words).toNat = r.words := by
  have := ram_words_le r
  rw [BitVec.toNat_ofNat]
  omega

/-- Settles O15: the table of `scbRead`, at each offset of slot 0 (`memRead_controlBlock`). -/
theorem controlBlockReads : Obligations.ControlBlockReads := by
  intro s
  have hread (off : Nat) (hoff : off < 256) := memRead_controlBlock hoff s
  have hram := hread 0x02 (by decide)
  have hbudget := hread 0x03 (by decide)
  have hticks := (hread 0x04 (by decide)).trans (readTicks_eq s)
  have hcount := hread 0x0A (by decide)
  refine ⟨hread 0x00 (by decide), hread 0x01 (by decide), congrArg Prod.snd hram,
    (congrArg (·.1.toNat) hram).trans (toNat_ram_words _), congrArg Prod.snd hbudget, congrArg (·.1.toNat) hbudget,
    congrArg Prod.fst hticks, congrArg Prod.snd hticks, hread 0x05 (by decide), hread 0x06 (by decide),
    hread 0x07 (by decide), hread 0x08 (by decide), hread 0x09 (by decide), congrArg Prod.snd hcount,
    congrArg (·.1.toNat) hcount, fun addr hlow hhigh => memRead_reserved hlow hhigh s, fun v rest => draw_supplied,
    draw_free⟩

/-! ### Writes (R333) -/

/-- The four writable registers; every other offset drops the word. -/
theorem scbWrite_eq (off : Nat) (v : Word) (s : State) :
    scbWrite off v s =
      if off = 0x05 then s.setSysIqm v
      else if off = 0x06 then s.setMpuBase v
      else if off = 0x07 then s.setMpuLimit v
      else if off = 0x08 then s.setMpuCtrl v
      else s := by
  unfold scbWrite
  split
  case h_5 hiqm hbase hlimit hctrl => rw [if_neg hiqm, if_neg hbase, if_neg hlimit, if_neg hctrl]
  all_goals rfl

/-- Settles O16: the table of `scbWrite` (`scbWrite_eq`), an offset of slot 0 being the address less the slot's base. -/
theorem controlBlockWrites : Obligations.ControlBlockWrites := by
  intro s addr v hlow hhigh
  have hslot : slotOf addr = 0 := by rw [slotOf_eq]; omega
  have hoff (k : Nat) (hk : k < 256) : offsetOf addr = k ↔ addr = BitVec.ofNat 16 (0xE000 + k) := by
    rw [← BitVec.toNat_inj, BitVec.toNat_ofNat, offsetOf]
    omega
  rw [memWrite_mmio hlow, hslot, devWrite, if_pos rfl, scbWrite_eq]
  simp only [hoff 0x05 (by decide), hoff 0x06 (by decide), hoff 0x07 (by decide), hoff 0x08 (by decide),
    Nat.reduceAdd]

end Sys2Proof.Proofs.ControlBlock
end

-- The instructions that compute nothing (49_block_system.md R273 to R277).
section
namespace Sys2Proof.Proofs.SystemInstr

open Sys2Proof Sys2Proof.Machine

section Brk
variable (a : OpA) {s : State}

theorem exec_brk_alone (h : s.cfg.debuggerAttached = false) : exec (.brk a) s = .next ((passed a s).charge 1) := by
  have hcfg : ((passed a s).charge 1).cfg.debuggerAttached = false := h
  simp only [exec, execBrk, passA_eq, hcfg, Bool.false_eq_true, if_false]

theorem exec_brk_attached (h : s.cfg.debuggerAttached = true) :
    exec (.brk a) s = .next ((((passed a s).charge 1).emit .debugBreak).setHostStop .debugBreak) := by
  have hcfg : ((passed a s).charge 1).cfg.debuggerAttached = true := h
  simp only [exec, execBrk, passA_eq, hcfg, if_true]

end Brk

theorem doNothing_eq (cost : Nat) (a : OpA) (s : State) : doNothing cost a s = .next ((passed a s).charge cost) := by
  rw [doNothing, passA_eq]

theorem exec_hlt (a : OpA) (s : State) : exec (.hlt a) s = .next (((passed a s).setHalted true).charge 1) := by
  rw [← passA_eq]
  rfl

/-- Settles O60: the three reserved special encodings are `doNothing`, BRK goes by the debugger. -/
theorem idleInstructions : Obligations.IdleInstructions := fun _ a s =>
  ⟨rfl, rfl, doNothing_eq 1 a s, doNothing_eq 1 a s, doNothing_eq 1 a s, exec_brk_alone a, exec_brk_attached a,
    exec_hlt a s⟩

end Sys2Proof.Proofs.SystemInstr
end

-- The invariant at boot (70_reset_and_hazards.md R360, R362).
section
namespace Sys2Proof.Proofs.BootInvariant

open Sys2Proof Sys2Proof.Machine Sys2Proof.Proofs.Reset

/-- RAM in its canonical form, with installed words only (20_memory.md R43). -/
def CanonicalRam (ramWords : Nat) (m : Memory) : Prop := m.wf = true ∧ ∀ c ∈ m, c.1 < 2 * ramWords

theorem CanonicalRam.writeWord {ramWords : Nat} {m : Memory} (h : CanonicalRam ramWords m) {i : Nat} (hi : i < ramWords)
    (v : Word) : CanonicalRam ramWords (m.writeWord i v) := by
  obtain ⟨hwf, hinstalled⟩ := h
  refine ⟨Memory.wf_writeWord m i v hwf, fun c hc => ?_⟩
  obtain hhigh | hlow | hold := Memory.mem_writeWord hc
  · omega
  · omega
  · exact hinstalled c hold

/-- The boot copy writes installed words only. -/
theorem CanonicalRam.loadRom {ramWords : Nat} (ws : List Word) {m : Memory} (h : CanonicalRam ramWords m) (i : Nat) :
    CanonicalRam ramWords (loadRom ramWords i ws m) := by
  induction ws generalizing i m with
  | nil => exact h
  | cons v vs ih =>
    rw [Machine.loadRom]
    refine ih ?_ _
    split
    · next hi => exact h.writeWord hi v
    · exact h

theorem boot_inv (cfg : Config) : Inv (boot cfg) := by
  have hempty : CanonicalRam cfg.ram.words [] := ⟨rfl, by simp⟩
  obtain ⟨hwf, hinstalled⟩ := hempty.loadRom cfg.rom 0
  exact ⟨hwf, hinstalled, Nat.zero_le _, rfl, fun _ _ => .inr rfl⟩

/-- Settles O9: the boot copy keeps RAM canonical (`CanonicalRam.loadRom`), the other clauses are fields of `boot`, and
`State.reset` is the boot of the initial installation. -/
theorem bootMeetsInvariant : Obligations.BootMeetsInvariant := by
  obtain ⟨hreset, -⟩ := bootGivesResetValues
  exact ⟨fun cfg => ⟨boot_inv cfg, rfl⟩, hreset ▸ boot_inv Config.initial⟩

end Sys2Proof.Proofs.BootInvariant
end

-- BCOPY (49_block_system.md R271, R272).
section
namespace Sys2Proof.Proofs.BlockCopy

open Sys2Proof Sys2Proof.Machine Sys2Proof.Proofs.MemoryAccess Sys2Proof.Proofs.StoreFrame

/-! ### The order of a copy -/

/-- The indices in the order of the copy: last word first when the source begins below the destination. -/
def copyOrder (src dst : Word) (n : Nat) : List Nat :=
  if src.toNat < dst.toNat then (List.range n).reverse else List.range n

theorem mem_copyOrder {src dst : Word} {n k : Nat} : k ∈ copyOrder src dst n ↔ k < n := by
  unfold copyOrder
  split <;> simp

theorem copyOrder_forward {src dst : Word} (h : dst.toNat ≤ src.toNat) (n : Nat) :
    copyOrder src dst n = List.range n := if_neg (by omega)

theorem copyOrder_backward {src dst : Word} (h : src.toNat < dst.toNat) (n : Nat) :
    copyOrder src dst n = (List.range n).reverse := if_pos h

/-- BCOPY copies the words in this order, its operand passed over. -/
theorem exec_bcopy (a : OpA) (s : State) :
    let n := (s.reg .C).toNat
    let r := copyWords (s.reg .A) (s.reg .B) (copyOrder (s.reg .A) (s.reg .B) n) (passed a s)
    exec (.bcopy a) s = .next ((copyEnd (s.reg .A) (s.reg .B) n (decide ((s.reg .A).toNat < (s.reg .B).toNat)) r.1
      r.2).charge (2 + n)) := by
  simp only [exec, execBcopy, passA_eq, decide_eq_true_eq]
  rfl

theorem toNat_add_ofNat {base : Word} {k : Nat} (h : base.toNat + k < 65536) :
    (base + BitVec.ofNat 16 k).toNat = base.toNat + k := by
  rw [BitVec.toNat_add, BitVec.toNat_ofNat]
  omega

/-- Copying word `i` leaves word `j` to be copied: it writes neither where `j` goes nor where `j` comes from. -/
def Leaves (src dst : Word) (i j : Nat) : Prop :=
  dst + BitVec.ofNat 16 j ≠ dst + BitVec.ofNat 16 i ∧ src + BitVec.ofNat 16 j ≠ dst + BitVec.ofNat 16 i

/-- The direction rule: in the order of the copy no word is overwritten before it is copied, if neither range wraps. -/
theorem copyOrder_leaves {src dst : Word} {n : Nat} (hsrc : src.toNat + n ≤ 65536) (hdst : dst.toNat + n ≤ 65536) :
    (copyOrder src dst n).Pairwise (Leaves src dst) := by
  have hleaves {i j : Nat} (hi : i < n) (hj : j < n) (hij : i ≠ j) (hover : src.toNat + j ≠ dst.toNat + i) :
      Leaves src dst i j := by
    constructor
    · rw [← BitVec.toNat_ne_iff_ne, toNat_add_ofNat (by omega), toNat_add_ofNat (by omega)]
      omega
    · rw [← BitVec.toNat_ne_iff_ne, toNat_add_ofNat (by omega), toNat_add_ofNat (by omega)]
      exact hover
  obtain hbackward | hforward := Nat.lt_or_ge src.toNat dst.toNat
  · rw [copyOrder_backward hbackward, List.pairwise_reverse]
    refine List.pairwise_lt_range.imp_of_mem fun hj hi hij => ?_
    rw [List.mem_range] at hi hj
    exact hleaves hi hj (by omega) (by omega)
  · rw [copyOrder_forward hforward]
    refine List.pairwise_lt_range.imp_of_mem fun hi hj hij => ?_
    rw [List.mem_range] at hi hj
    exact hleaves hi hj (by omega) (by omega)

/-! ### A copy that cannot abort -/

/-- No access aborts a copy out of fault mode or with the MPU off. -/
theorem abortsCopy_off {s : State} (h : s.mpuCtrl.getLsbD 1 = false ∨ s.mpuCtrl.getLsbD 0 = false) (addr : Word)
    (k : Access) : abortsCopy addr k s = false := by
  obtain hsilent | hoff := h
  · rw [abortsCopy, mpuFaultMode, hsilent, Bool.and_false]
  · rw [abortsCopy, mpuViolation, hoff]
    rfl

/-- One word of the copy, where nothing can end it: a read, then a write. -/
def moveWord (src dst : Word) (s : State) (k : Nat) : State :=
  memWrite (dst + BitVec.ofNat 16 k) (memRead (src + BitVec.ofNat 16 k) s).1 (memRead (src + BitVec.ofNat 16 k) s).2

theorem copyWord_off {src dst : Word} {i : Nat} {s : State}
    (h : s.mpuCtrl.getLsbD 1 = false ∨ s.mpuCtrl.getLsbD 0 = false) :
    copyWord src dst i s = (false, moveWord src dst s i) := by
  have hread := (memRead_envStep (src + BitVec.ofNat 16 i) s).mpuCtrl
  rw [copyWord, abortsCopy_off h, if_neg Bool.false_ne_true, abortsCopy_off (by rwa [hread])]
  rfl

theorem copyWords_off {src dst : Word} (is : List Nat) {s : State}
    (h : s.mpuCtrl.getLsbD 1 = false ∨ s.mpuCtrl.getLsbD 0 = false)
    (hctrl : ∀ k ∈ is, dst + BitVec.ofNat 16 k ≠ 0xE008#16) :
    copyWords src dst is s = (none, is.foldl (moveWord src dst) s) := by
  induction is generalizing s with
  | nil => rfl
  | cons i is ih =>
    rw [List.forall_mem_cons] at hctrl
    obtain ⟨hi, his⟩ := hctrl
    have hword := copyWord_off (src := src) (dst := dst) (i := i) h
    have hkept : (moveWord src dst s i).mpuCtrl = s.mpuCtrl := by
      have hstores := copyWord_storesWithin s src dst i
      rw [hword] at hstores
      exact hstores.control.ctrl (by simpa using hi.symm)
    rw [copyWords, hword]
    exact ih (by rwa [hkept]) his

/-! ### Accesses that reach RAM or nothing -/

/-- The access is below the MMIO window and ends no copy: it reaches RAM, or reads 0x0000, or is dropped. -/
def Quiet (addr : Word) (k : Access) (s : State) : Prop :=
  addr.toNat < 0xE000 ∧ (mpuViolation addr k s = false ∨ s.mpuCtrl.getLsbD 1 = false)

section Quiet
variable {addr : Word} {k : Access} {s : State}

theorem Quiet.of_plainRam (h : plainRam addr k s) : Quiet addr k s := ⟨h.lt, .inl h.2⟩

theorem Quiet.abortsCopy (h : Quiet addr k s) : abortsCopy addr k s = false := by
  obtain ⟨-, hpass | hsilent⟩ := h
  · rw [Machine.abortsCopy, hpass, Bool.false_and]
  · exact abortsCopy_off (.inl hsilent) addr k

theorem Quiet.memRead_blocked (h : Quiet addr .read s) (hblocked : ¬plainRam addr .read s) :
    memRead addr s = (0x0000#16, s) := by
  obtain ⟨hlow, hmode⟩ := h
  cases hviol : mpuViolation addr .read s with
  | true => rw [memRead_violation hviol, noteViolation_silent (hmode.resolve_left (by simp [hviol]))]
  | false => exact memRead_uninstalled hlow (Nat.le_of_not_lt fun hram => hblocked ⟨hram, hviol⟩) hviol

theorem Quiet.memRead_state (h : Quiet addr .read s) : memRead addr s = ((memRead addr s).1, s) := by
  by_cases hplain : plainRam addr .read s
  · rw [memRead_plain hplain]
  · rw [h.memRead_blocked hplain]

theorem Quiet.memWrite_blocked (h : Quiet addr .write s) (hblocked : ¬plainRam addr .write s) (v : Word) :
    memWrite addr v s = s := by
  obtain ⟨hlow, hmode⟩ := h
  cases hviol : mpuViolation addr .write s with
  | true => rw [memWrite_violation hviol, noteViolation_silent (hmode.resolve_left (by simp [hviol]))]
  | false => exact memWrite_uninstalled hlow (Nat.le_of_not_lt fun hram => hblocked ⟨hram, hviol⟩) v hviol

/-- What a quiet read gives depends on the one word of RAM. -/
theorem Quiet.memRead_setMem (h : Quiet addr .read s) {m : Memory}
    (hword : m.readWord addr.toNat = s.mem.readWord addr.toNat) :
    (memRead addr (s.setMem m)).1 = (memRead addr s).1 := by
  by_cases hplain : plainRam addr .read s
  · rw [memRead_plain hplain, memRead_plain (plainRam_setMem hplain m)]
    exact hword
  · have hthere : Quiet addr .read (s.setMem m) := h
    rw [h.memRead_blocked hplain, hthere.memRead_blocked hplain]

end Quiet

/-! ### What a quiet copy leaves in memory -/

/-- Each listed word that may be written holds what a read of its source gave in `s`; every other word is as in `s`. -/
structure Copied (src dst : Word) (is : List Nat) (s : State) (m : Memory) : Prop where
  copied : ∀ k ∈ is, plainRam (dst + BitVec.ofNat 16 k) .write s →
    m.readWord (dst + BitVec.ofNat 16 k).toNat = (memRead (src + BitVec.ofNat 16 k) s).1
  others : ∀ w : Nat, (∀ k ∈ is, plainRam (dst + BitVec.ofNat 16 k) .write s → (dst + BitVec.ofNat 16 k).toNat ≠ w) →
    m.readWord w = s.mem.readWord w

section Copies
variable {src dst : Word} {s : State}

theorem copyWord_quiet {i : Nat} (hread : Quiet (src + BitVec.ofNat 16 i) .read s)
    (hwrite : Quiet (dst + BitVec.ofNat 16 i) .write s) :
    ∃ m, copyWord src dst i s = (false, s.setMem m) ∧ Copied src dst [i] s m := by
  have hword : copyWord src dst i s =
      (false, memWrite (dst + BitVec.ofNat 16 i) (memRead (src + BitVec.ofNat 16 i) s).1 s) := by
    simp only [copyWord, hread.abortsCopy, Bool.false_eq_true, if_false]
    rw [hread.memRead_state, hwrite.abortsCopy]
  rw [hword]
  by_cases hplain : plainRam (dst + BitVec.ofNat 16 i) .write s
  · rw [memWrite_plain hplain]
    refine ⟨_, rfl, fun k hk _ => ?_, fun w hw => ?_⟩
    · rw [List.mem_singleton.mp hk, Memory.readWord_writeWord, if_pos rfl]
    · rw [Memory.readWord_writeWord, if_neg (hw i (List.mem_singleton_self i) hplain).symm]
  · rw [hwrite.memWrite_blocked hplain]
    exact ⟨s.mem, rfl, fun k hk h => absurd (List.mem_singleton.mp hk ▸ h) hplain, fun _ _ => rfl⟩

/-- One word and then others that it leaves to be copied. -/
theorem Copied.cons {i : Nat} {is : List Nat} {m m' : Memory} (h : Copied src dst [i] s m)
    (g : Copied src dst is (s.setMem m) m') (hleaves : ∀ j ∈ is, Leaves src dst i j)
    (hread : ∀ j ∈ is, Quiet (src + BitVec.ofNat 16 j) .read s) : Copied src dst (i :: is) s m' := by
  have hfirst {addr : Word} (hne : addr ≠ dst + BitVec.ofNat 16 i) :
      m.readWord addr.toNat = s.mem.readWord addr.toNat :=
    h.others _ fun k hk _ => by
      rw [List.mem_singleton.mp hk, BitVec.toNat_ne_iff_ne]
      exact hne.symm
  constructor
  · intro k hk hplain
    obtain rfl | hk := List.mem_cons.mp hk
    · rw [g.others _ fun j hj _ => BitVec.toNat_ne_iff_ne.mpr (hleaves j hj).1]
      exact h.copied k (List.mem_singleton_self k) hplain
    · obtain ⟨-, hsource⟩ := hleaves k hk
      rw [g.copied k hk hplain, (hread k hk).memRead_setMem (hfirst hsource)]
  · intro w hw
    rw [List.forall_mem_cons] at hw
    obtain ⟨hi, his⟩ := hw
    rw [g.others w his]
    exact h.others w fun k hk => List.mem_singleton.mp hk ▸ hi

/-- A copy of quiet accesses only does not stop and changes nothing but memory; in an order in which no word is
overwritten before it is copied, it copies the words. -/
theorem copyWords_quiet (is : List Nat)
    (hquiet : ∀ k ∈ is, Quiet (src + BitVec.ofNat 16 k) .read s ∧ Quiet (dst + BitVec.ofNat 16 k) .write s) :
    ∃ m, copyWords src dst is s = (none, s.setMem m) ∧ (is.Pairwise (Leaves src dst) → Copied src dst is s m) := by
  induction is generalizing s with
  | nil => exact ⟨s.mem, rfl, fun _ => ⟨by simp, fun _ _ => rfl⟩⟩
  | cons i is ih =>
    rw [List.forall_mem_cons] at hquiet
    obtain ⟨⟨hread, hwrite⟩, his⟩ := hquiet
    obtain ⟨m, hword, hone⟩ := copyWord_quiet hread hwrite
    obtain ⟨m', hwords, hmany⟩ := ih (s := s.setMem m) his
    refine ⟨m', ?_, fun hpairs => ?_⟩
    · rw [copyWords, hword]
      exact hwords
    · obtain ⟨hleaves, hrest⟩ := List.pairwise_cons.mp hpairs
      exact hone.cons (hmany hrest) hleaves fun j hj => (his j hj).1

end Copies

/-! ### The registers after a copy -/

section Registers
variable (src dst : Word) (n : Nat) (backward : Bool) (s : State)

theorem copyEnd_a (stop : Option Nat) :
    (copyEnd src dst n backward stop s).reg .A = src + BitVec.ofNat 16 (stop.getD n) := by
  cases stop <;> rfl

theorem copyEnd_b (stop : Option Nat) :
    (copyEnd src dst n backward stop s).reg .B = dst + BitVec.ofNat 16 (stop.getD n) := by
  cases stop <;> rfl

theorem copyEnd_c_done : (copyEnd src dst n backward none s).reg .C = 0x0000#16 := rfl

theorem copyEnd_c_stopped (i : Nat) :
    (copyEnd src dst n backward (some i) s).reg .C = BitVec.ofNat 16 (if backward then i + 1 else n - i) := rfl

theorem copyEnd_regsKept (stop : Option Nat) : RegsKept [.A, .B, .C] s (copyEnd src dst n backward stop s) := by
  intro r hr
  simp only [List.mem_cons, List.not_mem_nil, or_false, not_or] at hr
  obtain ⟨ha, hb, hc⟩ := hr
  cases stop <;>
    exact (State.reg_setReg_ne _ hc _).trans ((State.reg_setReg_ne _ hb _).trans (State.reg_setReg_ne _ ha _))

end Registers

/-! ### The statement of R271 -/

theorem add_ofNat_eq (base : Word) (k : Nat) : base + BitVec.ofNat 16 k = BitVec.ofNat 16 (base.toNat + k) := by
  rw [BitVec.ofNat_add, BitVec.ofNat_toNat, BitVec.setWidth_eq]

/-- The word `x` of memory may be read or written: it is installed and the MPU lets the access pass. -/
def Reachable (k : Access) (s : State) (x : Nat) : Prop :=
  x < s.cfg.ram.words ∧ mpuViolation (BitVec.ofNat 16 x) k s = false

theorem plainRam_add_iff {base : Word} {i : Nat} {k : Access} {s : State} (h : base.toNat + i < 0xE000) :
    plainRam (base + BitVec.ofNat 16 i) k s ↔ Reachable k s (base.toNat + i) := by
  rw [plainRam, Reachable, toNat_add_ofNat (by omega), add_ofNat_eq]

section Words
variable {src dst : Word} {n : Nat} {s : State} {m : Memory}

/-- A word of the destination that may be written holds what its source word read as. -/
theorem Copied.readWord (h : Copied src dst (List.range n) s m) {w : Nat} (hlow : dst.toNat + (w - dst.toNat) < 0xE000)
    (hfrom : dst.toNat ≤ w) (hto : w < dst.toNat + n) (hwrite : Reachable .write s w) :
    m.readWord w = (memRead (src + BitVec.ofNat 16 (w - dst.toNat)) s).1 := by
  have hw : dst.toNat + (w - dst.toNat) = w := by omega
  have hcopied := h.copied (w - dst.toNat) (List.mem_range.mpr (by omega))
    ((plainRam_add_iff hlow).mpr (by rwa [hw]))
  rwa [toNat_add_ofNat (by omega), hw] at hcopied

/-- A word outside the destination, or one that may not be written, is as before. -/
theorem Copied.readWord_outside (h : Copied src dst (List.range n) s m) (hlow : ∀ k, k < n → dst.toNat + k < 0xE000)
    {w : Nat} (hout : ¬(dst.toNat ≤ w ∧ w < dst.toNat + n ∧ Reachable .write s w)) :
    m.readWord w = s.mem.readWord w := by
  refine h.others w fun k hk hplain heq => hout ?_
  rw [List.mem_range] at hk
  have hk' := hlow k hk
  rw [plainRam_add_iff hk'] at hplain
  rw [toNat_add_ofNat (by omega)] at heq
  exact ⟨by omega, by omega, heq ▸ hplain⟩

end Words

/-- Below the MMIO window an access that is no violation is quiet, and in silent mode every access is. -/
theorem quiet_of_low {base : Word} {i : Nat} {k : Access} {s : State} (hlow : base.toNat + i < 0xE000)
    (hmode : mpuViolation (BitVec.ofNat 16 (base.toNat + i)) k s = false ∨ s.mpuCtrl.getLsbD 1 = false) :
    Quiet (base + BitVec.ofNat 16 i) k s := by
  rw [Quiet, toNat_add_ofNat (by omega), add_ofNat_eq]
  exact ⟨hlow, hmode⟩

/-- BCOPY where every access is quiet: the copy does not stop, the registers end past the ranges, and of the rest of the
state only PC, the cycles and the copied words change. -/
theorem exec_bcopy_quiet (a : OpA) {s : State}
    (hquiet : ∀ k, k < (s.reg .C).toNat →
      Quiet (s.reg .A + BitVec.ofNat 16 k) .read s ∧ Quiet (s.reg .B + BitVec.ofNat 16 k) .write s) :
    ∃ m, exec (.bcopy a) s = .next ((copyEnd (s.reg .A) (s.reg .B) (s.reg .C).toNat
        (decide ((s.reg .A).toNat < (s.reg .B).toNat)) none ((passed a s).setMem m)).charge (2 + (s.reg .C).toNat)) ∧
      ((s.reg .A).toNat + (s.reg .C).toNat ≤ 65536 → (s.reg .B).toNat + (s.reg .C).toNat ≤ 65536 →
        Copied (s.reg .A) (s.reg .B) (List.range (s.reg .C).toNat) (passed a s) m) := by
  obtain ⟨m, hwords, hcopied⟩ := copyWords_quiet (src := s.reg .A) (dst := s.reg .B) (s := passed a s)
    (copyOrder (s.reg .A) (s.reg .B) (s.reg .C).toNat) fun k hk => hquiet k (mem_copyOrder.mp hk)
  refine ⟨m, ?_, fun hsrc hdst => ?_⟩
  · rw [exec_bcopy, hwords]
  · obtain ⟨hin, hout⟩ := hcopied (copyOrder_leaves hsrc hdst)
    exact ⟨fun k hk => hin k (mem_copyOrder.mpr (List.mem_range.mp hk)),
      fun w hw => hout w fun k hk => hw k (List.mem_range.mpr (mem_copyOrder.mp hk))⟩

/-- The words of RAM after a quiet copy below the MMIO window, as R271 has them. -/
theorem Copied.words {src dst : Word} {n : Nat} {s : State} {m : Memory} (h : Copied src dst (List.range n) s m)
    (hlow : ∀ k, k < n → src.toNat + k < 0xE000 ∧ dst.toNat + k < 0xE000)
    (hread : ∀ k, k < n → Quiet (src + BitVec.ofNat 16 k) .read s) (w : Nat) :
    let source := src.toNat + (w - dst.toNat)
    (dst.toNat ≤ w → w < dst.toNat + n → Reachable .write s w → Reachable .read s source →
      m.readWord w = s.mem.readWord source) ∧
    (dst.toNat ≤ w → w < dst.toNat + n → Reachable .write s w → ¬Reachable .read s source →
      m.readWord w = 0x0000#16) ∧
    (¬(dst.toNat ≤ w ∧ w < dst.toNat + n ∧ Reachable .write s w) → m.readWord w = s.mem.readWord w) := by
  intro source
  refine ⟨fun hfrom hto hwrite hsource => ?_, fun hfrom hto hwrite hsource => ?_,
    h.readWord_outside fun k hk => (hlow k hk).2⟩
  · obtain ⟨hsrc, hdst⟩ := hlow (w - dst.toNat) (by omega)
    rw [h.readWord hdst hfrom hto hwrite, memRead_plain ((plainRam_add_iff hsrc).mpr hsource),
      toNat_add_ofNat (by omega)]
  · obtain ⟨hsrc, hdst⟩ := hlow (w - dst.toNat) (by omega)
    rw [h.readWord hdst hfrom hto hwrite,
      (hread _ (by omega)).memRead_blocked (mt (plainRam_add_iff hsrc).mp hsource)]

/-- Settles O58: where every access is quiet the copy is `Copied` whatever the overlap (`exec_bcopy_quiet`), and where
none can abort it is one move after another (`copyWords_off`). -/
theorem bcopyCopiesBlock : Obligations.BcopyCopiesBlock := by
  constructor
  · intro a s src dst n readable writable hlow hmode
    have hquiet (k : Nat) (hk : k < n) :
        Quiet (s.reg .A + BitVec.ofNat 16 k) .read s ∧ Quiet (s.reg .B + BitVec.ofNat 16 k) .write s :=
      ⟨quiet_of_low (hlow k hk).1 (hmode.symm.imp_left fun hpass => (hpass k hk).1),
        quiet_of_low (hlow k hk).2 (hmode.symm.imp_left fun hpass => (hpass k hk).2)⟩
    obtain ⟨hsrc, hdst⟩ : src + n ≤ 65536 ∧ dst + n ≤ 65536 := by
      have ha := (s.reg .A).isLt
      have hb := (s.reg .B).isLt
      have hlast (hn : 0 < n) := hlow (n - 1) (by omega)
      omega
    obtain ⟨m, hexec, hcopied⟩ := exec_bcopy_quiet a hquiet
    have hregs := copyEnd_regsKept (s.reg .A) (s.reg .B) n (decide (src < dst)) ((passed a s).setMem m) none
    refine ⟨_, hexec, (hcopied hsrc hdst).words hlow fun k hk => (hquiet k hk).1, ?_, ?_, rfl, hregs, rfl, rfl,
      rfl, rfl, rfl, (Nat.add_assoc _ _ _).symm⟩
    · rw [State.charge_reg, copyEnd_a, add_ofNat_eq]
      rfl
    · rw [State.charge_reg, copyEnd_b, add_ofNat_eq]
      rfl
  · intro a s src dst n hoff hctrl
    rw [exec_bcopy, copyWords_off (s := passed a s) _ hoff fun k hk => hctrl k (mem_copyOrder.mp hk)]
    rfl

/-! ### The statement of R272 -/

section Stop
variable {src dst : Word} {s : State}

/-- In fault mode a violating access ends the copy at its word, and only notes the violation. -/
theorem copyWord_stops {i : Nat} (hfault : s.mpuCtrl.getLsbD 1 = true)
    (hviol : mpuViolation (src + BitVec.ofNat 16 i) .read s = true ∨
      (plainRam (src + BitVec.ofNat 16 i) .read s ∧ mpuViolation (dst + BitVec.ofNat 16 i) .write s = true)) :
    copyWord src dst i s = (true, s.setMpuf true) := by
  have haborts {addr : Word} {k : Access} (h : mpuViolation addr k s = true) : abortsCopy addr k s = true := by
    rw [abortsCopy, mpuFaultMode, h, hfault, Bool.and_self]
  obtain hread | ⟨hplain, hwrite⟩ := hviol
  · rw [copyWord, haborts hread, if_pos rfl, memRead_violation hread, noteViolation_fault hfault]
  · rw [copyWord, (Quiet.of_plainRam hplain).abortsCopy, if_neg Bool.false_ne_true, memRead_plain hplain,
      haborts hwrite, memWrite_violation hwrite, noteViolation_fault hfault]

/-- A copy that reaches a word at which it stops goes no further. -/
theorem copyWords_append_stop {i : Nat} {is js : List Nat} {u v : State} (h : copyWords src dst is s = (none, u))
    (hstop : copyWord src dst i u = (true, v)) : copyWords src dst (is ++ i :: js) s = (some i, v) := by
  induction is generalizing s with
  | nil =>
    obtain rfl : s = u := congrArg Prod.snd h
    rw [List.nil_append, copyWords, hstop]
    rfl
  | cons k is ih =>
    rw [copyWords] at h
    rw [List.cons_append, copyWords]
    cases hword : (copyWord src dst k s).1 with
    | true => simp [hword] at h
    | false =>
      rw [hword] at h
      exact ih h

/-- In plain RAM every listed word is copied, and every other word is as before. -/
theorem Copied.readWord_plain {is : List Nat} {m : Memory} (h : Copied src dst is s m)
    (hplain : ∀ k ∈ is, plainRam (src + BitVec.ofNat 16 k) .read s ∧ plainRam (dst + BitVec.ofNat 16 k) .write s)
    (hwrap : ∀ k ∈ is, src.toNat + k < 65536 ∧ dst.toNat + k < 65536) (w : Nat) :
    m.readWord w = if dst.toNat ≤ w ∧ w - dst.toNat ∈ is then s.mem.readWord (src.toNat + (w - dst.toNat))
      else s.mem.readWord w := by
  split
  next hin =>
    obtain ⟨hfrom, hk⟩ := hin
    obtain ⟨hread, hwrite⟩ := hplain _ hk
    obtain ⟨hsrc, hdst⟩ := hwrap _ hk
    have hcopied := h.copied _ hk hwrite
    rwa [memRead_plain hread, toNat_add_ofNat hsrc, toNat_add_ofNat hdst, Nat.add_sub_cancel' hfrom] at hcopied
  next hout =>
    refine h.others w fun k hk _ heq => hout ?_
    rw [toNat_add_ofNat (hwrap k hk).2] at heq
    obtain rfl : w - dst.toNat = k := by omega
    exact ⟨by omega, hk⟩

end Stop

/-- BCOPY in fault mode, with plain RAM up to the violating word of index `i`: it stops there, the violation noted, and
the words before it in the order of the copy are copied. -/
theorem exec_bcopy_stops (a : OpA) {s : State} {i : Nat} {before after : List Nat}
    (horder : copyOrder (s.reg .A) (s.reg .B) (s.reg .C).toNat = before ++ i :: after)
    (hfault : s.mpuCtrl.getLsbD 1 = true)
    (hviol : mpuViolation (s.reg .A + BitVec.ofNat 16 i) .read s = true ∨
      (plainRam (s.reg .A + BitVec.ofNat 16 i) .read s ∧ mpuViolation (s.reg .B + BitVec.ofNat 16 i) .write s = true))
    (hplain : ∀ k ∈ before,
      plainRam (s.reg .A + BitVec.ofNat 16 k) .read s ∧ plainRam (s.reg .B + BitVec.ofNat 16 k) .write s) :
    ∃ m, exec (.bcopy a) s = .next ((copyEnd (s.reg .A) (s.reg .B) (s.reg .C).toNat
        (decide ((s.reg .A).toNat < (s.reg .B).toNat)) (some i)
        (((passed a s).setMem m).setMpuf true)).charge (2 + (s.reg .C).toNat)) ∧
      ((s.reg .A).toNat + (s.reg .C).toNat ≤ 65536 → (s.reg .B).toNat + (s.reg .C).toNat ≤ 65536 → ∀ w,
        m.readWord w = if (s.reg .B).toNat ≤ w ∧ w - (s.reg .B).toNat ∈ before
          then s.mem.readWord ((s.reg .A).toNat + (w - (s.reg .B).toNat)) else s.mem.readWord w) := by
  obtain ⟨m, hwords, hcopied⟩ := copyWords_quiet (s := passed a s) before fun k hk =>
    ⟨Quiet.of_plainRam (hplain k hk).1, Quiet.of_plainRam (hplain k hk).2⟩
  have hstop : copyWord (s.reg .A) (s.reg .B) i ((passed a s).setMem m) =
      (true, ((passed a s).setMem m).setMpuf true) := copyWord_stops hfault hviol
  refine ⟨m, ?_, fun hsrc hdst => ?_⟩
  · rw [exec_bcopy, horder, copyWords_append_stop hwords hstop]
  · have hleaves := copyOrder_leaves hsrc hdst
    have hbound (k : Nat) (hk : k ∈ before) : k < (s.reg .C).toNat := mem_copyOrder.mp (by
      rw [horder]
      exact List.mem_append_left _ hk)
    rw [horder] at hleaves
    exact (hcopied (List.pairwise_append.mp hleaves).1).readWord_plain hplain fun k hk => by
      have := hbound k hk
      omega

/-- The indices below `i`, `i`, and those above it. -/
theorem range_split {i n : Nat} (h : i < n) :
    List.range n = List.range i ++ i :: List.range' (i + 1) (n - (i + 1)) := by
  have hn : n = i + (n - (i + 1) + 1) := by omega
  conv_lhs => rw [hn]
  rw [List.range_eq_range', List.range_eq_range', ← List.range'_append_1, Nat.zero_add, List.range'_succ]

/-- Settles O59: both directions are `exec_bcopy_stops`; the words before the violating one are those below it going
forward, and those above it going backward. -/
theorem bcopyStopsAtViolation : Obligations.BcopyStopsAtViolation := by
  intro a s i
  dsimp only
  intro hfault hi hviol
  have hn := (s.reg .C).isLt
  refine ⟨fun hforward hplain => ?_, fun hbackward hplain => ?_⟩
  · have horder : copyOrder (s.reg .A) (s.reg .B) (s.reg .C).toNat =
        List.range i ++ i :: List.range' (i + 1) ((s.reg .C).toNat - (i + 1)) := by
      rw [copyOrder_forward hforward, ← range_split hi]
    obtain ⟨m, hexec, hwords⟩ := exec_bcopy_stops a horder hfault hviol fun k hk => hplain k (List.mem_range.mp hk)
    refine ⟨_, hexec, copyEnd_a _ _ _ _ _ (some i), copyEnd_b _ _ _ _ _ (some i), ?_, rfl, fun hsrc hdst w => ?_⟩
    · rw [State.charge_reg, copyEnd_c_stopped, decide_eq_false (by omega), if_neg Bool.false_ne_true,
        BitVec.toNat_ofNat]
      omega
    · refine (hwords hsrc hdst w).trans (if_congr ?_ rfl rfl)
      rw [List.mem_range]
      omega
  · have horder : copyOrder (s.reg .A) (s.reg .B) (s.reg .C).toNat =
        (List.range' (i + 1) ((s.reg .C).toNat - (i + 1))).reverse ++ i :: (List.range i).reverse := by
      rw [copyOrder_backward hbackward, range_split hi, List.reverse_append, List.reverse_cons, List.append_assoc,
        List.singleton_append]
    have hbefore {k : Nat} : k ∈ (List.range' (i + 1) ((s.reg .C).toNat - (i + 1))).reverse ↔
        i < k ∧ k < (s.reg .C).toNat := by
      rw [List.mem_reverse, List.mem_range'_1]
      omega
    obtain ⟨m, hexec, hwords⟩ := exec_bcopy_stops a horder hfault hviol fun k hk =>
      hplain k (hbefore.mp hk).1 (hbefore.mp hk).2
    refine ⟨_, hexec, copyEnd_a _ _ _ _ _ (some i), copyEnd_b _ _ _ _ _ (some i), ?_, rfl, fun hsrc hdst w => ?_⟩
    · rw [State.charge_reg, copyEnd_c_stopped, decide_eq_true hbackward, if_pos rfl, BitVec.toNat_ofNat]
      omega
    · refine (hwords hsrc hdst w).trans (if_congr ?_ rfl rfl)
      rw [hbefore]
      omega

end Sys2Proof.Proofs.BlockCopy
end
